-- ==== Sys2Proof/Word.lean ====
section
/-! DEFINITION. The words of the DK16: register and memory words of 32 bits, bytes of 8 bits. -/

namespace Sys2Proof

/-- A 32-bit word: a register value, a memory address, a sequence, a frame counter value. -/
abbrev Word := BitVec 32

/-- One byte of shared memory. -/
abbrev Byte := BitVec 8

end Sys2Proof
end

