-- ==== Sys2Proof/Syntax.lean ====
section
/-! DEFINITION. The commands of the DK16: one constructor per row of spec/opcode_table.json. -/

namespace Sys2Proof

/-- The response of the memory system to one granted burst (R164). `ok data` carries, for a read, the bytes of the
burst's 8-byte beats in ascending address order (R161), and for a write no data. -/
inductive Response where
  | ok (data : List Byte)
  | error
  deriving DecidableEq, Repr

/-- The block a fault report comes from (R148). -/
inductive Source where
  | scene
  | timing
  | fetch
  | paint
  deriving DecidableEq, Repr

/-- One command: a host write, a pin or clock event, an event of the scan, a response on the memory port, or a step
of one of the part's own blocks. A `rest` operand is the 32-bit value the host writes to RUN, whose field named by
the row is overridden by the row's own value (log entry 3). A `tag` names the outstanding place that a response
answers (R163). -/
inductive Instr where
  /-- DIR_BASE_WRITE, R174. -/
  | dirBaseWrite (value : Word)
  /-- OUTPUT_OFF, R54: a RUN write whose OUTPUT field is OFF. -/
  | outputOff (rest : Word)
  /-- OUTPUT_PARK, R54: a RUN write whose OUTPUT field is PARK. -/
  | outputPark (rest : Word)
  /-- OUTPUT_RUN, R54: a RUN write whose OUTPUT field is RUN. -/
  | outputRun (rest : Word)
  /-- PAINT_SET, R112: a RUN write whose PAINT field is 1. -/
  | paintSet (rest : Word)
  /-- PAINT_CLEAR, R121: a RUN write whose PAINT field is 0. -/
  | paintClear (rest : Word)
  /-- FAULT_MODE_WRITE, R150: a RUN write; its bit 8 is the fault mode it sets. -/
  | faultModeWrite (value : Word)
  /-- NUDGE, R177. -/
  | nudge
  /-- CLEAR_FAULT, R151. -/
  | clearFault
  /-- RESUME, R126. -/
  | resume
  /-- SOFT_RESET, R179. -/
  | softReset
  /-- EVENTS_WRITE, R157. -/
  | eventsWrite (value : Word)
  /-- EVENT_ENABLE_WRITE, R158. -/
  | eventEnableWrite (value : Word)
  /-- REGISTER_WRITE_OTHER, R172: a write of `value` at `offset`. -/
  | registerWriteOther (offset value : Word)
  /-- POWER_ON_RESET, R180: RESET_N is asserted. -/
  | powerOnReset
  /-- LOCK_EVENT, R56. `current` says that the event belongs to the derivation started at this entry to LOCKING,
  and not to that of an earlier entry. -/
  | lockEvent (current : Bool)
  /-- LOCK_TIMEOUT, R57. -/
  | lockTimeout
  /-- START_OF_LINE, R65. -/
  | startOfLine
  /-- LATCH_POINT, R66. -/
  | latchPoint
  /-- FENCE_TIMED_OUT, R142. -/
  | fenceTimedOut
  /-- FRAME_OPEN, R68. -/
  | frameOpen
  /-- FRAME_MARK, R70. -/
  | frameMark
  /-- TIMING_READ_RESPONSE, R51. -/
  | timingReadResponse (tag : Nat) (r : Response)
  /-- DESCRIPTOR_READ_RESPONSE, R10. -/
  | descriptorReadResponse (tag : Nat) (r : Response)
  /-- BODY_BURST_RESPONSE, R14. -/
  | bodyBurstResponse (tag : Nat) (r : Response)
  /-- SCENE_CHECKS_COMPLETE, R35. -/
  | sceneChecksComplete
  /-- SLOT_WRITE_RESPONSE, R18. -/
  | slotWriteResponse (tag : Nat) (r : Response)
  /-- SPAN_BURST_RESPONSE, R99. -/
  | spanBurstResponse (tag : Nat) (r : Response)
  /-- HEAD_POINTER_READ_RESPONSE, R112. -/
  | headPointerReadResponse (tag : Nat) (r : Response)
  /-- ORDER_HEAD_READ_RESPONSE, R113. -/
  | orderHeadReadResponse (tag : Nat) (r : Response)
  /-- REMAINDER_READ_RESPONSE, R114. -/
  | remainderReadResponse (tag : Nat) (r : Response)
  /-- LINK_READ_RESPONSE, R115. -/
  | linkReadResponse (tag : Nat) (r : Response)
  /-- TAIL_REREAD_RESPONSE, R117. -/
  | tailRereadResponse (tag : Nat) (r : Response)
  /-- CHAIN_LOOP, R116. -/
  | chainLoop
  /-- ACTIVE_WRITE_RESPONSE, R145. -/
  | activeWriteResponse (tag : Nat) (r : Response)
  /-- COPY_READ_RESPONSE, R137. -/
  | copyReadResponse (tag : Nat) (r : Response)
  /-- PIXEL_WRITE_RESPONSE, R137. -/
  | pixelWriteResponse (tag : Nat) (r : Response)
  /-- STAMP_WRITE_RESPONSE, R144. -/
  | stampWriteResponse (tag : Nat) (r : Response)
  /-- FINAL_STATUS_WRITE_RESPONSE, R115. -/
  | finalStatusWriteResponse (tag : Nat) (r : Response)
  /-- FAULT_REPORT, R149: the fault unit takes the oldest report of `source`. -/
  | faultReport (source : Source)
  /-- STATUS_BLOCK_WRITE, R154. -/
  | statusBlockWrite
  /-- ERROR_RECORD_WRITE, R155. -/
  | errorRecordWrite
  /-- COUNT_WRITE, R155. -/
  | countWrite
  /-- STATUS_WRITER_RESPONSE, R156. -/
  | statusWriterResponse (tag : Nat) (r : Response)
  /-- BURST_GRANT, R162. -/
  | burstGrant
  /-- ABANDONED_RESPONSE, R169. -/
  | abandonedResponse (tag : Nat) (r : Response)
  /-- RESET_N_RELEASE, R180. -/
  | resetNRelease
  deriving DecidableEq, Repr

end Sys2Proof
end

