-- ==== Sys2Proof/Machine/State.lean ====
section
/-! DEFINITION. The state of the DK16, block by block, and the machine right after reset. -/

namespace Sys2Proof.Machine

/-! ### Values shared by several blocks -/

/-- A colour as three 8-bit channels (R79): the high byte of an XRGB8888 value is dropped. -/
structure Rgb where
  r : Byte
  g : Byte
  b : Byte
  deriving DecidableEq, Repr

/-- A scene slot, 0 to 3. -/
abbrev Slot := Fin 4

/-- A rectangle: origin and size in pixels (00, Conventions). -/
structure Rect where
  x : Nat
  y : Nat
  w : Nat
  h : Nat
  deriving DecidableEq, Repr

/-- The two pixel formats (R182). -/
inductive Format where
  | rgb565
  | xrgb8888
  deriving DecidableEq, Repr

/-- The unified code table (R188). -/
inductive Code where
  | none | stale | sequenceBad | lengthBad | alignBad | busFault | checkMismatch | countBad | kindBad | formatBad
  | fieldConflict | geometryBad | ringBad | motionBad | depthExceeded | budgetExceeded | overlapBad | timingBad
  | lockTimeout | chainLoop
  deriving DecidableEq, Repr

/-! ### The register window (chapters 8 and 10) -/

/-- The target named by RUN OUTPUT. -/
inductive OutputTarget where
  | off | park | run
  deriving DecidableEq, Repr

/-- RUN FAULT_MODE (R150). -/
inductive FaultMode where
  | stop | continue
  deriving DecidableEq, Repr

/-- The twelve events, in the order of their bits (section 8.5). -/
inductive Event where
  | sceneTaken | sceneRejected | frameMark | underrun | fetchFault | locked | parked | outputStopped | paintNotify
  | paintHalted | errorLatched | configRefused
  deriving DecidableEq, Repr

/-- The host registers that hold state. EVENTS and EVENT_ENABLE keep their 12 event bits. -/
structure Regs where
  dirBase : Word
  runOutput : OutputTarget
  runPaint : Bool
  runMode : FaultMode
  events : BitVec 12
  enable : BitVec 12
  deriving DecidableEq, Repr

/-! ### The scene loader (chapters 1 and 2) -/

/-- The loader phase (section 1.3). -/
inductive LoaderPhase where
  | idle | descriptors | body | checking
  deriving DecidableEq, Repr

/-- The fields of a slot descriptor that a load reads (R184); the result byte is ignored. -/
structure Descriptor where
  state : Byte
  seq : Word
  bodyAddr : Word
  bodyLen : Word
  check : Word
  deriving DecidableEq, Repr

/-- A motion step (R34). -/
structure Motion where
  stepX : Int
  stepY : Int
  deriving DecidableEq, Repr

/-- The SURFACE fields of a window table entry (R47). -/
structure Surface where
  format : Format
  base : Word
  pitch : Nat
  srcX : Nat
  srcY : Nat
  key : Option Rgb
  ring : Option Rect
  motion : Option Motion
  view : Rect
  deriving DecidableEq, Repr

/-- What a window shows: one colour, or pixels of a surface. -/
inductive Content where
  | fill (colour : Rgb)
  | surface (sf : Surface)
  deriving DecidableEq, Repr

/-- A window table entry (R47). Its stacking position is its index in the table. -/
structure Window where
  ratio : Nat
  dst : Rect
  content : Content
  deriving DecidableEq, Repr

/-- An entry of the in-view table (R48). -/
structure ViewEntry where
  base : Word
  pitch : Nat
  rect : Rect
  deriving DecidableEq, Repr

/-- The staged-scene record (R16). -/
structure Staged where
  slot : Slot
  seq : Word
  minFrames : Nat
  bg : Rgb
  skip : List Slot
  deriving DecidableEq, Repr

/-- The scene loader's state (section 1.3), with the fields of a load in flight (R8, R12, R14). -/
structure Loader where
  phase : LoaderPhase
  candidate : Option Slot
  descs : Vector (Option Descriptor) 4
  descLeft : Nat
  skip : List Slot
  image : List Byte
  bodyLeft : Nat
  shownSlot : Option Slot
  shownSeq : Word
  hasShown : Bool
  shownMin : Nat
  shownBg : Rgb
  framesShown : Nat
  staged : Option Staged
  shownTable : List Window
  stagedTable : List Window
  inView : List ViewEntry
  deriving DecidableEq, Repr

/-! ### The scan timing unit (chapter 3) -/

/-- The output state (section 3.2). -/
inductive OutputState where
  | off | locking | parked | running | parking
  deriving DecidableEq, Repr

/-- The origin of an entry to LOCKING (R55). -/
inductive Origin where
  | off | parked
  deriving DecidableEq, Repr

/-- The lock phase (R55): the timing read is outstanding, or PCLK is being locked. -/
inductive LockPhase where
  | reading | clock
  deriving DecidableEq, Repr

/-- A timing record (section 3.1). -/
structure Timing where
  w : Nat
  h : Nat
  b : Nat
  v : Nat
  div : Nat
  outWidth : Nat
  hsyncHigh : Bool
  vsyncHigh : Bool
  idle : Rgb
  markDiv : Nat
  markDelay : Nat
  tag : Word
  deriving DecidableEq, Repr

/-- The line position (section 3.2): the line, the pixel period within it, and whether the latch point or the frame
open of this line start has still to be taken (log entry 4). -/
structure LinePos where
  line : Nat
  period : Nat
  latchDue : Bool
  openDue : Bool
  deriving DecidableEq, Repr

/-- The scan timing unit's state (section 3.2) and the FMK pin. -/
structure Scan where
  output : OutputState
  origin : Option Origin
  lockPhase : Option LockPhase
  timing : Option Timing
  line : Option LinePos
  frameCounter : Word
  mark : Option Nat
  fmk : Bool
  timerOn : Bool
  deriving DecidableEq, Repr

/-! ### The compositor (chapter 4) -/

/-- A window in the coming or current list (R74): its stacking position, the first clipped column, how many clipped
columns there are, its source row, and its mark: faulted in the coming list, skipped in the current one. -/
structure Listed where
  pos : Nat
  first : Nat
  count : Nat
  row : Nat
  mark : Bool
  deriving DecidableEq, Repr

/-- A motion offset (R84). -/
structure Offset where
  col : Nat
  row : Nat
  deriving DecidableEq, Repr

/-- The compositor's state (section 4.1). `offsets` runs along the shown table, with none for a window that has no
ring. -/
structure Comp where
  current : List Listed
  coming : List Listed
  offsets : List (Option Offset)
  flags : Vector Bool 16
  deriving DecidableEq, Repr

/-! ### The line fetch unit (chapter 5) -/

/-- The span status (R94). -/
inductive SpanStatus where
  | none | waiting | complete | errored
  deriving DecidableEq, Repr

/-- A span in a bank of the line store (R94): its window's stacking position, its status, its pieces as first byte
address and byte count, its raw pixel bytes in panel column order, and how many of its bursts have not answered. -/
structure Span where
  pos : Nat
  status : SpanStatus
  pieces : List (Nat × Nat)
  data : List Byte
  left : Nat
  deriving DecidableEq, Repr

/-- The line fetch unit's state (R94); the bursts still to request stand at the memory port. -/
structure Fetch where
  active : Option Nat
  filling : List Span
  reading : List Span
  underruns : Word
  deriving DecidableEq, Repr

/-! ### The paint engine (chapters 6 and 7) -/

/-- The engine state (section 6.2). -/
inductive EngineState where
  | stopped | loading | executing | held | waiting | atTail | halted
  deriving DecidableEq, Repr

/-- A surface named by an order, as read (R186). -/
structure OrderSurface where
  base : Word
  pitch : Nat
  format : Byte
  w : Nat
  h : Nat
  deriving DecidableEq, Repr

/-- The fields of a COPY (section 7.4), as read. -/
structure CopyFields where
  src : OrderSurface
  dst : OrderSurface
  rotation : Byte
  mirror : Bool
  sx : Nat
  sy : Nat
  w : Nat
  h : Nat
  dx : Nat
  dy : Nat
  deriving DecidableEq, Repr

/-- The fields of a FILL (section 7.5), as read. -/
structure FillFields where
  dst : OrderSurface
  rect : Rect
  colour : Rgb
  deriving DecidableEq, Repr

/-- The fields of an order's remainder, by kind (R129); `unknown` is an order whose kind is none of 1 to 4. -/
inductive Order where
  | copy (c : CopyFields)
  | fill (f : FillFields)
  | fence (condition : Byte) (value timeout : Word)
  | stamp (target token : Word)
  | unknown
  deriving DecidableEq, Repr

/-- The final statuses (section 7.2). -/
inductive FinalStatus where
  | done
  | refused (code : Code)
  | fault
  | aborted
  | timedOut
  | noOutput
  deriving DecidableEq, Repr

/-- The phases of the held order (R110). -/
inductive HeldPhase where
  | seen | running | faulted | closing
  deriving DecidableEq, Repr

/-- The held order (R110). `decided` is its final status once that is settled, `oldWalk` says that a PAINT clear has
ended its walk (R121, R125), `row` counts the destination rows finished (R137), and `src` with `srcLeft` is the row
of source pixels being read and how many of its reads have not answered. -/
structure Held where
  addr : Word
  kind : Byte
  flags : Byte
  order : Order
  phase : HeldPhase
  decided : Option FinalStatus
  oldWalk : Bool
  row : Nat
  src : List Byte
  srcLeft : Nat
  deriving DecidableEq, Repr

/-- The paint engine's state (section 6.2). `buf`, `bufLeft` and `bufErr` are the bytes of the read in progress, how
many of its bursts have not answered, and the address of the first of them that failed (R186). -/
structure Paint where
  engine : EngineState
  held : Option Held
  chainPos : Word
  passedOver : Nat
  fenceCount : Word
  reenable : Bool
  buf : List Byte
  bufLeft : Nat
  bufErr : Option Word
  deriving DecidableEq, Repr

/-! ### The fault unit and the status writer (chapter 8) -/

/-- A fault report (section 8.1). A slot or window index of none is written 0xFF. -/
structure Report where
  source : Source
  code : Code
  slot : Option Slot
  window : Option Nat
  seq : Word
  addr : Word
  deriving DecidableEq, Repr

/-- The record copy (section 8.1.1). -/
structure FaultRecord where
  code : Code
  source : Option Source
  slot : Option Slot
  window : Option Nat
  seq : Word
  addr : Word
  frame : Word
  deriving DecidableEq, Repr

/-- The fault unit's state (section 8.1.1), with the reports made and not yet taken, oldest first (log entry 6). -/
structure FaultUnit where
  latch : Bool
  record : FaultRecord
  later : Nat
  reports : List Report
  deriving DecidableEq, Repr

/-- The status writer's state (R153). -/
structure Writer where
  update : Word
  wantBlock : Bool
  wantRecord : Bool
  wantCount : Bool
  busy : Bool
  deriving DecidableEq, Repr

/-! ### The memory port (chapter 9) -/

/-- The four requesters, highest priority first (section 9.1). -/
inductive Requester where
  | fetch | loader | status | paint
  deriving DecidableEq, Repr

/-- What a burst is for: all that its requester needs to know when it answers. -/
inductive BurstKind where
  /-- The read of the timing record (R50). -/
  | timing
  /-- The read of a slot descriptor (R8). -/
  | descriptor (slot : Slot)
  /-- A read of the body at an offset of the image (R14). -/
  | body (off : Nat)
  /-- A write of a slot's first word, with the sequence an ERROR is reported with; `asks` is set on the SHOWN write of
  a take-over and the RETIRED write of an entry to OFF, at whose issue a status block is asked for (R18, R63). -/
  | slotWrite (slot : Slot) (seq : Word) (asks : Bool)
  /-- A read of a span: the line it serves (R98), the span place and the byte offset in the span. -/
  | span (line place off : Nat)
  /-- The read of the paint head pointer at the start of a walk (R112). -/
  | headPointer
  /-- A read of the head of the order at `addr`, at a byte offset of the head (R113). -/
  | orderHead (addr : Word) (off : Nat)
  /-- A read of the held order's remainder, at a byte offset of it (R114). -/
  | remainder (off : Nat)
  /-- The read of a link after an order has ended (R115). -/
  | link
  /-- A re-read of the tail (R117) or the read a RESUME makes (R126). -/
  | tail
  /-- The ACTIVE write (R145). -/
  | active
  /-- A source read of a COPY, at a byte offset of the row buffer (R137). -/
  | copySrc (off : Nat)
  /-- A pixel write (R137, R138). -/
  | pixel
  /-- The STAMP data write (R144). -/
  | stamp
  /-- The final status write (R115). -/
  | final
  /-- A write of the status writer (R154, R155). -/
  | status
  deriving DecidableEq, Repr

/-- A burst (R161): what it is for, its first byte's address and its length, the bytes it writes, whether it lies past
the top of the address space, and whether its requester has ended the work it belongs to, so that its response is
discarded (R160, R101). -/
structure Burst where
  kind : BurstKind
  addr : Word
  len : Nat
  data : List Byte
  beyond : Bool
  dropped : Bool
  deriving DecidableEq, Repr

/-- An outstanding place (R163). -/
structure Place where
  tag : Nat
  burst : Burst
  abandoned : Bool
  deriving DecidableEq, Repr

/-- The memory port's state (section 9.7). The head of a requester's list is its presented burst; the bursts behind it
are those the requester will present next, in order (R160). `epoch` is the model's own: it counts the power-on resets,
so that no tag of a burst granted before one is used again after it (R170, log entry 8). -/
structure Port where
  fetch : List Burst
  loader : List Burst
  status : List Burst
  paint : List Burst
  reads : List Place
  write : Option Place
  epoch : Nat
  deriving DecidableEq, Repr

/-! ### The machine -/

/-- Why a step may stop. No rule of the spec stops the part: its faults are reports to the fault unit, events and the
engine state HALTED, all of them next states. So this type has no constructor. -/
inductive Fault where
  deriving DecidableEq, Repr

/-- Why a command may have no meaning. -/
inductive Refusal where
  /-- Raised by `exec` alone, for a row of the table that has no meaning yet; safe. -/
  | notModelled (mnemonic : String)
  deriving DecidableEq, Repr

/-- The state of the part. `resetHeld` says that RESET_N is asserted (R180). `freeIdx` counts the free values used (log
entry 3) and `pending` is the queue of commands not yet taken, first in, first out; both are the model's own. -/
structure State where
  regs : Regs
  loader : Loader
  scan : Scan
  comp : Comp
  fetch : Fetch
  paint : Paint
  fault : FaultUnit
  writer : Writer
  port : Port
  resetHeld : Bool
  freeIdx : Nat
  pending : List Instr
  deriving DecidableEq, Repr

/-- The register reset values after power-on (R180). -/
def Regs.reset : Regs :=
  { dirBase := 0, runOutput := .off, runPaint := false, runMode := .stop, events := 0, enable := 0 }

/-- R27. -/
def Loader.reset : Loader :=
  { phase := .idle, candidate := none, descs := Vector.replicate 4 none, descLeft := 0, skip := [], image := [],
    bodyLeft := 0, shownSlot := none, shownSeq := 0, hasShown := false, shownMin := 1, shownBg := ⟨0, 0, 0⟩,
    framesShown := 0, staged := none, shownTable := [], stagedTable := [], inView := [] }

/-- R72. -/
def Scan.reset : Scan :=
  { output := .off, origin := none, lockPhase := none, timing := none, line := none, frameCounter := 0, mark := none,
    fmk := false, timerOn := false }

/-- R92. -/
def Comp.reset : Comp :=
  { current := [], coming := [], offsets := [], flags := Vector.replicate 16 false }

/-- R107. -/
def Fetch.reset : Fetch :=
  { active := none, filling := [], reading := [], underruns := 0 }

/-- R128. -/
def Paint.reset : Paint :=
  { engine := .stopped, held := none, chainPos := 0, passedOver := 0, fenceCount := 0, reenable := false, buf := [],
    bufLeft := 0, bufErr := none }

/-- R152. -/
def FaultUnit.reset : FaultUnit :=
  { latch := false,
    record := { code := .none, source := none, slot := none, window := none, seq := 0, addr := 0, frame := 0 },
    later := 0, reports := [] }

/-- R156. -/
def Writer.reset : Writer :=
  { update := 0, wantBlock := false, wantRecord := false, wantCount := false, busy := false }

/-- R170. -/
def Port.reset : Port :=
  { fetch := [], loader := [], status := [], paint := [], reads := [], write := none, epoch := 0 }

/-- The part right after a power-on reset, RESET_N released (R180), with no command waiting. -/
def State.reset : State :=
  { regs := Regs.reset, loader := Loader.reset, scan := Scan.reset, comp := Comp.reset, fetch := Fetch.reset,
    paint := Paint.reset, fault := FaultUnit.reset, writer := Writer.reset, port := Port.reset, resetHeld := false,
    freeIdx := 0, pending := [] }

end Sys2Proof.Machine
end

