-- ==== Sys2Proof/Machine/Operands.lean ====
section
/-! DEFINITION. The operand forms: little-endian fields of records in shared memory (chapter 11), the fields of the RUN
register (section 10.1), and the byte values of the codes. -/

namespace Sys2Proof.Machine

/-! ### Fields of a record (R182) -/

/-- The byte at an offset of a record. -/
def u8 (l : List Byte) (o : Nat) : Byte :=
  l.getD o 0

/-- The unsigned 16-bit little-endian field at an offset. -/
def u16 (l : List Byte) (o : Nat) : Nat :=
  (u8 l o).toNat + 256 * (u8 l (o + 1)).toNat

/-- The unsigned 32-bit little-endian field at an offset. -/
def u32 (l : List Byte) (o : Nat) : Word :=
  u8 l (o + 3) ++ u8 l (o + 2) ++ u8 l (o + 1) ++ u8 l o

/-- The signed 16-bit two's-complement field at an offset. -/
def s16 (l : List Byte) (o : Nat) : Int :=
  (u8 l (o + 1) ++ u8 l o : BitVec 16).toInt

/-- The colour field at an offset: blue, green, red, then the ignored byte. -/
def colourAt (l : List Byte) (o : Nat) : Rgb :=
  { r := u8 l (o + 2), g := u8 l (o + 1), b := u8 l o }

/-- Bit `n` of the flag byte at an offset. -/
def flagAt (l : List Byte) (o n : Nat) : Bool :=
  (u8 l o).getLsbD n

/-- A 16-bit value as the part writes it. -/
def le16 (n : Nat) : List Byte :=
  [BitVec.ofNat 8 n, BitVec.ofNat 8 (n / 256)]

/-- A 32-bit value as the part writes it. -/
def le32 (w : Word) : List Byte :=
  [w.extractLsb' 0 8, w.extractLsb' 8 8, w.extractLsb' 16 8, w.extractLsb' 24 8]

/-- `l` with `d` written over it from offset `o` on; the length of `l` is kept. -/
def putBytes (l : List Byte) (o : Nat) (d : List Byte) : List Byte :=
  (l.take o ++ d ++ l.drop (o + d.length)).take l.length

/-! ### The codes (R188, R154, R184, R186, R187) -/

/-- The byte value of a code. -/
def Code.toByte : Code → Byte
  | .none => 0x00
  | .stale => 0x01
  | .sequenceBad => 0x02
  | .lengthBad => 0x03
  | .alignBad => 0x04
  | .busFault => 0x05
  | .checkMismatch => 0x06
  | .countBad => 0x07
  | .kindBad => 0x08
  | .formatBad => 0x09
  | .fieldConflict => 0x0A
  | .geometryBad => 0x0B
  | .ringBad => 0x0C
  | .motionBad => 0x0D
  | .depthExceeded => 0x0E
  | .budgetExceeded => 0x0F
  | .overlapBad => 0x10
  | .timingBad => 0x11
  | .lockTimeout => 0x12
  | .chainLoop => 0x13

/-- The output state as STATE and the status block carry it. -/
def OutputState.toNat : OutputState → Nat
  | .off => 0
  | .locking => 1
  | .parked => 2
  | .running => 3
  | .parking => 4

/-- The paint state as STATE and the status block carry it. -/
def EngineState.toNat : EngineState → Nat
  | .stopped => 0
  | .loading => 1
  | .executing => 2
  | .held => 3
  | .waiting => 4
  | .atTail => 5
  | .halted => 6

/-- The source byte of the error record. -/
def sourceByte : Option Source → Byte
  | none => 0
  | some .scene => 1
  | some .timing => 2
  | some .fetch => 3
  | some .paint => 4

/-- A slot byte: 0xFF when no slot is named. -/
def slotByte : Option Slot → Byte
  | none => 0xFF
  | some n => BitVec.ofNat 8 n.val

/-- A window index byte: 0xFF when no window is named. -/
def windowByte : Option Nat → Byte
  | none => 0xFF
  | some n => BitVec.ofNat 8 n

/-- The state byte of a final status (section 7.2). -/
def FinalStatus.stateByte : FinalStatus → Byte
  | .done => 3
  | .refused _ => 4
  | .fault => 5
  | .aborted => 6
  | .timedOut => 7
  | .noOutput => 8

/-- The code that goes with a final status (R108). -/
def FinalStatus.code : FinalStatus → Code
  | .refused c => c
  | .fault => .busFault
  | .done => .none
  | .aborted => .none
  | .timedOut => .none
  | .noOutput => .none

/-! ### The RUN register (section 10.1) -/

/-- RUN OUTPUT, bits 1:0: none for the value 3. -/
def runOutputField (v : Word) : Option OutputTarget :=
  match (v.extractLsb' 0 2).toNat with
  | 0 => some .off
  | 1 => some .park
  | 2 => some .run
  | _ => none

/-- RUN PAINT, bit 4. -/
def runPaintField (v : Word) : Bool :=
  v.getLsbD 4

/-- RUN FAULT_MODE, bit 8. -/
def runModeField (v : Word) : FaultMode :=
  if v.getLsbD 8 then .continue else .stop

/-- OUTPUT as RUN holds it. -/
def OutputTarget.toNat : OutputTarget → Nat
  | .off => 0
  | .park => 1
  | .run => 2

/-- The value written to RUN with its OUTPUT field set to `t` and the other bits of `rest`. -/
def withOutput (rest : Word) (t : OutputTarget) : Word :=
  (rest &&& 0xFFFFFFFC) ||| BitVec.ofNat 32 t.toNat

/-- The value written to RUN with its PAINT field set to `p` and the other bits of `rest`. -/
def withPaint (rest : Word) (p : Bool) : Word :=
  (rest &&& 0xFFFFFFEF) ||| (if p then 0x10 else 0)

/-! ### Pixels (R79, R135) -/

/-- Bytes per pixel of a format. -/
def Format.bytes : Format → Nat
  | .rgb565 => 2
  | .xrgb8888 => 4

/-- The format a format byte names. -/
def Format.ofByte (b : Byte) : Option Format :=
  if b = 1 then some .rgb565 else if b = 2 then some .xrgb8888 else none

/-- Bytes per pixel as a legal format byte gives them. -/
def formatBytes (b : Byte) : Nat :=
  if b = 1 then 2 else 4

/-- R79: the expansion of an RGB565 value, repeating each channel's high bits. -/
def expand565 (p : Nat) : Rgb :=
  let r := p / 2048 % 32
  let g := p / 32 % 64
  let b := p % 32
  { r := BitVec.ofNat 8 (r * 8 + r / 4), g := BitVec.ofNat 8 (g * 4 + g / 16), b := BitVec.ofNat 8 (b * 8 + b / 4) }

/-- R79: the 8:8:8 colour of a raw pixel at a byte offset. -/
def rgbOfRaw (f : Format) (l : List Byte) (o : Nat) : Rgb :=
  match f with
  | .rgb565 => expand565 (u16 l o)
  | .xrgb8888 => colourAt l o

/-- R135: a colour as the part writes it: high bits only for RGB565, ignored byte 0 for XRGB8888. -/
def rawOfRgb (f : Format) (c : Rgb) : List Byte :=
  match f with
  | .rgb565 => le16 (c.r.toNat / 8 * 2048 + c.g.toNat / 4 * 32 + c.b.toNat / 8)
  | .xrgb8888 => [c.b, c.g, c.r, 0]

/-- R135: a raw pixel of format `f` as it is written in format `g`. -/
def convertPixel (f g : Format) (raw : List Byte) : List Byte :=
  if f = g then raw else rawOfRgb g (rgbOfRaw f raw 0)

end Sys2Proof.Machine
end

