-- ==== Sys2Proof/Machine/Flags.lean ====
section
/-! DEFINITION. The event flags, IRQ_N, and the STATE and RUN registers as the host reads them. -/

namespace Sys2Proof.Machine

/-- The bit of an event in EVENTS and EVENT_ENABLE (section 8.5). -/
def Event.bit : Event → Nat
  | .sceneTaken => 0
  | .sceneRejected => 1
  | .frameMark => 2
  | .underrun => 3
  | .fetchFault => 4
  | .locked => 5
  | .parked => 6
  | .outputStopped => 7
  | .paintNotify => 8
  | .paintHalted => 9
  | .errorLatched => 10
  | .configRefused => 11

/-- EVENTS with only the flag of `e` set. -/
def Event.mask (e : Event) : BitVec 12 :=
  BitVec.twoPow 12 e.bit

/-- Whether the pending flag of `e` is set. -/
def Regs.isPending (r : Regs) (e : Event) : Bool :=
  r.events.getLsbD e.bit

/-- R157: raising an event sets its pending flag. -/
def Regs.raise (e : Event) (r : Regs) : Regs :=
  { r with events := r.events ||| e.mask }

/-- R157: a host write to EVENTS clears the flags whose bits are written as one; bits 12 to 31 have no effect. -/
def Regs.clearEvents (v : Word) (r : Regs) : Regs :=
  { r with events := r.events &&& ~~~(v.extractLsb' 0 12) }

/-- R158: a host write to EVENT_ENABLE; bits 12 to 31 are ignored. -/
def Regs.setEnable (v : Word) (r : Regs) : Regs :=
  { r with enable := v.extractLsb' 0 12 }

/-- R158: the level of IRQ_N: low (false) while some event is both pending and enabled. -/
def irqN (s : State) : Bool :=
  s.regs.events &&& s.regs.enable == 0

/-- R173: STATE, its five fields together. -/
def stateWord (s : State) : Word :=
  BitVec.ofNat 32
    (s.scan.output.toNat + s.paint.engine.toNat * 16 + (if s.fault.latch then 256 else 0) +
      (if s.loader.staged.isSome then 4096 else 0) + (slotByte s.loader.shownSlot).toNat * 65536)

/-- RUN as the host reads it (R175). -/
def runWord (r : Regs) : Word :=
  BitVec.ofNat 32
    (r.runOutput.toNat + (if r.runPaint then 16 else 0) + (if r.runMode = .continue then 256 else 0))

/-- R172, R173: what a host read of an offset returns. A read changes no state, and the table has no row for it (log
entry 19). While RESET_N is asserted every read returns 0. -/
def readReg (offset : Word) (s : State) : Word :=
  if s.resetHeld then 0
  else
    match offset.toNat with
    | 0x00 => 0x6A160001
    | 0x04 => s.regs.dirBase
    | 0x08 => runWord s.regs
    | 0x10 => s.regs.events.zeroExtend 32
    | 0x14 => s.regs.enable.zeroExtend 32
    | 0x18 => stateWord s
    | _ => 0

end Sys2Proof.Machine
end

