-- ==== Sys2Proof/WellFormed.lean ====
section
/-! DEFINITION. Which commands the part's ports can carry: the operand checks. `exec` is total and does not rely on
them; log entry 23 says what it does with a command that fails one. -/

namespace Sys2Proof

/-- The tag of a read place, `n` being 0 to 7, after `epoch` power-on resets (log entry 8). -/
def readTag (epoch n : Nat) : Nat := 9 * epoch + n

/-- The tag of the one outstanding write after `epoch` power-on resets (log entry 8). -/
def writeTag (epoch : Nat) : Nat := 9 * epoch + 8

/-- R161: a burst occupies one to eight 8-byte beats, and a read returns whole beats. -/
def wholeBeats (data : List Byte) : Bool :=
  data.length % 8 == 0 && 8 ≤ data.length && data.length ≤ 64

/-- A response to a read: the tag of a read place, and whole beats when it is OK (R163, R164). -/
def readResponseOk (tag : Nat) : Response → Bool
  | .ok data => tag % 9 != 8 && wholeBeats data
  | .error => tag % 9 != 8

/-- A response to a write: the tag of the write place, and no data (R163, R164). -/
def writeResponseOk (tag : Nat) : Response → Bool
  | .ok data => tag % 9 == 8 && data.isEmpty
  | .error => tag % 9 == 8

/-- The writes of the row REGISTER_WRITE_OTHER: an aligned offset (R172) that is IDENT, STATE, one from 0x1C upward,
or ACTION with a code that is none of 1 to 4. -/
def otherWriteOk (offset value : Word) : Bool :=
  offset.toNat % 4 == 0 &&
    (offset == 0x00 || offset == 0x18 || 0x1C ≤ offset.toNat ||
      (offset == 0x0C && !(1 ≤ value.toNat && value.toNat ≤ 4)))

/-- The operand checks of every command. -/
def Instr.wellFormed : Instr → Bool
  | .dirBaseWrite _ => true
  | .outputOff _ => true
  | .outputPark _ => true
  | .outputRun _ => true
  | .paintSet _ => true
  | .paintClear _ => true
  | .faultModeWrite _ => true
  | .nudge => true
  | .clearFault => true
  | .resume => true
  | .softReset => true
  | .eventsWrite _ => true
  | .eventEnableWrite _ => true
  | .registerWriteOther offset value => otherWriteOk offset value
  | .powerOnReset => true
  | .lockEvent _ => true
  | .lockTimeout => true
  | .startOfLine => true
  | .latchPoint => true
  | .fenceTimedOut => true
  | .frameOpen => true
  | .frameMark => true
  | .timingReadResponse tag r => readResponseOk tag r
  | .descriptorReadResponse tag r => readResponseOk tag r
  | .bodyBurstResponse tag r => readResponseOk tag r
  | .sceneChecksComplete => true
  | .slotWriteResponse tag r => writeResponseOk tag r
  | .spanBurstResponse tag r => readResponseOk tag r
  | .headPointerReadResponse tag r => readResponseOk tag r
  | .orderHeadReadResponse tag r => readResponseOk tag r
  | .remainderReadResponse tag r => readResponseOk tag r
  | .linkReadResponse tag r => readResponseOk tag r
  | .tailRereadResponse tag r => readResponseOk tag r
  | .chainLoop => true
  | .activeWriteResponse tag r => writeResponseOk tag r
  | .copyReadResponse tag r => readResponseOk tag r
  | .pixelWriteResponse tag r => writeResponseOk tag r
  | .stampWriteResponse tag r => writeResponseOk tag r
  | .finalStatusWriteResponse tag r => writeResponseOk tag r
  | .faultReport _ => true
  | .statusBlockWrite => true
  | .errorRecordWrite => true
  | .countWrite => true
  | .statusWriterResponse tag r => writeResponseOk tag r
  | .burstGrant => true
  | .abandonedResponse tag r => readResponseOk tag r || writeResponseOk tag r
  | .resetNRelease => true

end Sys2Proof
end

