-- ==== Sys2Proof/Machine/Ops.lean ====
section
/-! DEFINITION. The named operations that the meanings are made of: one update per block of State, the events and
requests a block sends to another, and the bursts of the memory port. -/

namespace Sys2Proof.Machine

/-! ### Updates, one per block -/

/-- The register window updated by `f`. -/
def State.modRegs (f : Regs → Regs) (s : State) : State :=
  { s with regs := f s.regs }

/-- The scene loader updated by `f`. -/
def State.modLoader (f : Loader → Loader) (s : State) : State :=
  { s with loader := f s.loader }

/-- The scan timing unit updated by `f`. -/
def State.modScan (f : Scan → Scan) (s : State) : State :=
  { s with scan := f s.scan }

/-- The compositor updated by `f`. -/
def State.modComp (f : Comp → Comp) (s : State) : State :=
  { s with comp := f s.comp }

/-- The line fetch unit updated by `f`. -/
def State.modFetch (f : Fetch → Fetch) (s : State) : State :=
  { s with fetch := f s.fetch }

/-- The paint engine updated by `f`. -/
def State.modPaint (f : Paint → Paint) (s : State) : State :=
  { s with paint := f s.paint }

/-- The fault unit updated by `f`. -/
def State.modFault (f : FaultUnit → FaultUnit) (s : State) : State :=
  { s with fault := f s.fault }

/-- The status writer updated by `f`. -/
def State.modWriter (f : Writer → Writer) (s : State) : State :=
  { s with writer := f s.writer }

/-- The memory port updated by `f`. -/
def State.modPort (f : Port → Port) (s : State) : State :=
  { s with port := f s.port }

/-! ### Messages between blocks -/

/-- R180, R172: while RESET_N is asserted the part is held in its reset state and takes nothing; otherwise a command
has the effect `f`. -/
def live (f : State → State) (s : State) : Host.Outcome State Fault Refusal :=
  .next (if s.resetHeld then s else f s)

/-- An event raised (R157). -/
def raise (e : Event) : State → State :=
  State.modRegs (Regs.raise e)

/-- A fault report made; the fault unit takes it in a step of its own (R149, log entry 6). -/
def report (r : Report) : State → State :=
  State.modFault fun f => { f with reports := f.reports ++ [r] }

/-- A status block asked of the status writer; a request already pending merges with it (R153). -/
def askBlock : State → State :=
  State.modWriter fun w => { w with wantBlock := true }

/-- A write of the error record asked of the status writer (R153). -/
def askRecord : State → State :=
  State.modWriter fun w => { w with wantRecord := true }

/-- A write of the count word asked of the status writer (R153). -/
def askCount : State → State :=
  State.modWriter fun w => { w with wantCount := true }

/-! ### Serial comparison (01, section 1.2) -/

/-- `a` is newer than `b` when (a − b) modulo 2^32 lies in 1 to 2^31 − 1. -/
def newer (a b : Word) : Bool :=
  1 ≤ (a - b).toNat && (a - b).toNat < 2 ^ 31

/-! ### Bursts (R160, R161) -/

/-- The requester that presents a burst; the timing read stands in the scene loader's place (R160). -/
def BurstKind.requester : BurstKind → Requester
  | .timing => .loader
  | .descriptor _ => .loader
  | .body _ => .loader
  | .slotWrite _ _ _ => .loader
  | .span _ _ _ => .fetch
  | .headPointer => .paint
  | .orderHead _ _ => .paint
  | .remainder _ => .paint
  | .link => .paint
  | .tail => .paint
  | .active => .paint
  | .copySrc _ => .paint
  | .pixel => .paint
  | .stamp => .paint
  | .final => .paint
  | .status => .status

/-- Whether a burst is a write. -/
def BurstKind.isWrite : BurstKind → Bool
  | .timing => false
  | .descriptor _ => false
  | .body _ => false
  | .slotWrite _ _ _ => true
  | .span _ _ _ => false
  | .headPointer => false
  | .orderHead _ _ => false
  | .remainder _ => false
  | .link => false
  | .tail => false
  | .active => true
  | .copySrc _ => false
  | .pixel => true
  | .stamp => true
  | .final => true
  | .status => true

/-- A burst of `len` bytes from address `a`. R161: a burst past the top of the address space stands at address 0 and is
answered ERROR by the port (log entry 10). -/
def burstAt (kind : BurstKind) (a len : Nat) (data : List Byte) : Burst :=
  { kind := kind, addr := if a < 2 ^ 32 then BitVec.ofNat 32 a else 0, len := len, data := data,
    beyond := 2 ^ 32 ≤ a, dropped := false }

/-- R161: the run of `n` bytes from `a`, cut at every multiple of 64 it crosses, as first byte and length of each part.
The first argument bounds the number of parts. -/
def cutRun : Nat → Nat → Nat → List (Nat × Nat)
  | 0, _, _ => []
  | fuel + 1, a, n =>
    if n = 0 then [] else (a, min n (64 - a % 64)) :: cutRun fuel (a + min n (64 - a % 64)) (n - min n (64 - a % 64))

/-- The bursts of the run of `n` bytes from `a`, in ascending address order; `kind` is told each burst's offset in the
run, and each takes its part of `data`. R14, R98 and R137 give the order; for the head and the remainder of an order
it is the model's choice (log entry 34). -/
def runBursts (kind : Nat → BurstKind) (a n : Nat) (data : List Byte) : List Burst :=
  (cutRun (n / 64 + 2) a n).map fun p => burstAt (kind (p.1 - a)) p.1 p.2 ((data.drop (p.1 - a)).take p.2)

/-- The address of a record of the control block (R183). -/
def controlAddr (offset : Nat) (s : State) : Nat :=
  s.regs.dirBase.toNat + offset

/-! ### Presenting and withdrawing (R160) -/

/-- The scene loader issues bursts, behind those it has issued before. -/
def issueLoader (bs : List Burst) : State → State :=
  State.modPort fun p => { p with loader := p.loader ++ bs }

/-- R160: the timing read is presented before the scene loader's next burst, behind one that is already presented. It
goes ahead of the discarded timing read of an abandoned entry that has not been presented (log entry 33). -/
def issueTiming (b : Burst) : State → State :=
  State.modPort fun p =>
    { p with loader := match p.loader with | [] => [b] | c :: rest => c :: b :: rest }

/-- The line fetch unit requests bursts. -/
def issueFetch (bs : List Burst) : State → State :=
  State.modPort fun p => { p with fetch := p.fetch ++ bs }

/-- The status writer issues bursts. -/
def issueStatus (bs : List Burst) : State → State :=
  State.modPort fun p => { p with status := p.status ++ bs }

/-- The paint engine issues bursts. -/
def issuePaint (bs : List Burst) : State → State :=
  State.modPort fun p => { p with paint := p.paint ++ bs }

/-- A burst whose response its requester will discard. -/
def Burst.drop (b : Burst) : Burst :=
  { b with dropped := true }

/-- The granted reads of the kinds `k` are discarded when they answer (R160, R163). -/
def Port.dropReads (k : BurstKind → Bool) (p : Port) : Port :=
  { p with reads := p.reads.map fun pl => if k pl.burst.kind then { pl with burst := pl.burst.drop } else pl }

/-- R18, R63, R166: the status block of a take-over or of an entry to OFF is asked for when its last slot write is issued,
that is, presented (log entry 25). -/
def settleLoader (s : State) : State :=
  match s.port.loader with
  | ⟨.slotWrite slot seq true, addr, len, data, beyond, dropped⟩ :: rest =>
    askBlock (s.modPort fun p => { p with loader := ⟨.slotWrite slot seq false, addr, len, data, beyond, dropped⟩ :: rest })
  | _ => s

/-! ### Responses (R163, R164) -/

/-- What a response tells its requester: the bytes the burst named, or an ERROR. -/
abbrev Answer := Option (List Byte)

/-- How many bytes the beats of a burst hold (R161). -/
def beatBytes (b : Burst) : Nat :=
  (b.addr.toNat % 8 + b.len + 7) / 8 * 8

/-- Whether a response has the form of an answer to a burst: an OK read returns the burst's whole beats (R161, log entry
9). -/
def responseFits (b : Burst) : Response → Bool
  | .error => true
  | .ok data => b.kind.isWrite || data.length == beatBytes b

/-- R161, R164: the requester keeps only the bytes the burst named. -/
def responseAnswer (b : Burst) : Response → Answer
  | .error => none
  | .ok data => some ((data.drop (b.addr.toNat % 8)).take b.len)

/-- The outstanding places of the port. -/
def Port.places (p : Port) : List Place :=
  p.reads ++ p.write.toList

/-- The outstanding burst with a tag, of the kinds `k` and not abandoned (R163, R169). -/
def Port.find (k : BurstKind → Bool) (tag : Nat) (p : Port) : Option Burst :=
  (p.places.find? fun pl => pl.tag == tag && !pl.abandoned && k pl.burst.kind).map Place.burst

/-- The place with a tag freed by its response. -/
def Port.free (tag : Nat) (p : Port) : Port :=
  { p with reads := p.reads.filter (fun pl => pl.tag != tag), write := p.write.filter (fun pl => pl.tag != tag) }

/-- R163: a response frees its place and is handed to the requester whose burst it answers, which discards it if it has
ended the work the burst belongs to. A response that matches no place is ignored (R170). -/
def respond (k : BurstKind → Bool) (tag : Nat) (r : Response) (answer : Burst → Answer → State → State)
    (s : State) : State :=
  match s.port.find k tag with
  | none => s
  | some b =>
    if responseFits b r then
      if b.dropped then s.modPort (Port.free tag) else answer b (responseAnswer b r) (s.modPort (Port.free tag))
    else s

end Sys2Proof.Machine
end

