-- ==== Sys2Proof/Machine/OrderChecks.lean ====
section
/-! DEFINITION. The paint orders as records: their fields (R186), their checks (R130 to R133, R136), the geometry of a
COPY (R134) and the view hold's overlap test (R139). -/

namespace Sys2Proof.Machine

/-- R129: the length of an order's remainder by its kind byte; no remainder is read for another kind. -/
def remainderLength (kind : Byte) : Nat :=
  match kind.toNat with
  | 1 => 40
  | 2 => 24
  | 3 => 12
  | 4 => 8
  | _ => 0

/-- R186: the fields of a COPY, from the remainder that begins at record offset 12. -/
def parseCopy (l : List Byte) : CopyFields :=
  { src := { base := u32 l 0, pitch := (u32 l 4).toNat, format := u8 l 12, w := u16 l 8, h := u16 l 10 },
    dst := { base := u32 l 24, pitch := (u32 l 28).toNat, format := u8 l 13, w := u16 l 32, h := u16 l 34 },
    rotation := u8 l 14, mirror := flagAt l 15 0, sx := u16 l 16, sy := u16 l 18, w := u16 l 20, h := u16 l 22,
    dx := u16 l 36, dy := u16 l 38 }

/-- R186: the fields of a FILL, whose pitch is a 16-bit field. -/
def parseFill (l : List Byte) : FillFields :=
  { dst := { base := u32 l 0, pitch := u16 l 4, format := u8 l 6, w := u16 l 8, h := u16 l 10 },
    rect := { x := u16 l 12, y := u16 l 14, w := u16 l 16, h := u16 l 18 }, colour := colourAt l 20 }

/-- R186: an order's fields, from its kind byte and its remainder. -/
def parseOrder (kind : Byte) (l : List Byte) : Order :=
  match kind.toNat with
  | 1 => .copy (parseCopy l)
  | 2 => .fill (parseFill l)
  | 3 => .fence (u8 l 0) (u32 l 4) (u32 l 8)
  | 4 => .stamp (u32 l 0) (u32 l 4)
  | _ => .unknown

/-- Two rectangles have at least one pixel in common (00, Conventions). -/
def Rect.intersects (a b : Rect) : Bool :=
  max a.x b.x < min (a.x + a.w) (b.x + b.w) && max a.y b.y < min (a.y + a.h) (b.y + b.h)

/-! ### COPY geometry (R134) -/

/-- Rotation by 90 or 270 degrees, which exchanges width and height. -/
def CopyFields.turned (c : CopyFields) : Bool :=
  c.rotation == 1 || c.rotation == 3

/-- The width of the destination rectangle. -/
def CopyFields.dstW (c : CopyFields) : Nat :=
  if c.turned then c.h else c.w

/-- The height of the destination rectangle. -/
def CopyFields.dstH (c : CopyFields) : Nat :=
  if c.turned then c.w else c.h

/-- The source rectangle. -/
def CopyFields.srcRect (c : CopyFields) : Rect :=
  { x := c.sx, y := c.sy, w := c.w, h := c.h }

/-- The destination rectangle (R133). -/
def CopyFields.dstRect (c : CopyFields) : Rect :=
  { x := c.dx, y := c.dy, w := c.dstW, h := c.dstH }

/-- R134: the destination pixel, relative to the destination origin, that receives source pixel (i, j). -/
def CopyFields.place (c : CopyFields) (i j : Nat) : Nat × Nat :=
  let i' := if c.mirror then c.w - 1 - i else i
  match c.rotation.toNat with
  | 1 => (c.h - 1 - j, i')
  | 2 => (c.w - 1 - i', c.h - 1 - j)
  | 3 => (j, c.w - 1 - i')
  | _ => (i', j)

/-- R134 read the other way: the source pixel that destination pixel (col, row) receives. -/
def CopyFields.sourceOf (c : CopyFields) (col row : Nat) : Nat × Nat :=
  let p :=
    match c.rotation.toNat with
    | 1 => (row, c.h - 1 - col)
    | 2 => (c.w - 1 - col, c.h - 1 - row)
    | 3 => (c.w - 1 - row, col)
    | _ => (col, row)
  (if c.mirror then c.w - 1 - p.1 else p.1, p.2)

/-- R136: source and destination are the same surface. -/
def CopyFields.sameSurface (c : CopyFields) : Bool :=
  c.src.base == c.dst.base && c.src.pitch == c.dst.pitch

/-- R136: the same surface, with rectangles that intersect. -/
def CopyFields.overlapping (c : CopyFields) : Bool :=
  c.sameSurface && c.srcRect.intersects c.dstRect

/-- R137: the destination row that is produced as the n-th: from the bottom upward for an overlapping COPY whose
destination lies lower than its source, else from the top downward. -/
def CopyFields.rowIndex (c : CopyFields) (n : Nat) : Nat :=
  if c.overlapping && c.sy < c.dy then c.dstH - 1 - n else n

/-! ### The checks (R130) -/

/-- R131: a base and pitch that fail ALIGN_BAD. -/
def OrderSurface.alignBad (f : OrderSurface) : Bool :=
  f.base.toNat % 8 != 0 || f.pitch % 8 != 0 || f.pitch < 8 || 32768 < f.pitch

/-- R132: a format byte that is neither RGB565 nor XRGB8888. -/
def formatBad (b : Byte) : Bool :=
  b != 1 && b != 2

/-- R133: a surface that fails GEOMETRY_BAD. -/
def OrderSurface.geometryBad (f : OrderSurface) : Bool :=
  f.w == 0 || 4096 < f.w || f.h == 0 || 4096 < f.h || f.pitch < f.w * formatBytes f.format ||
    2 ^ 32 ≤ f.base.toNat + (f.h - 1) * f.pitch + f.w * formatBytes f.format - 1

/-- R133: a rectangle of a legal size that lies inside a surface. -/
def rectBad (r : Rect) (f : OrderSurface) : Bool :=
  r.w == 0 || 4096 < r.w || r.h == 0 || 4096 < r.h || 4095 < r.x || 4095 < r.y || f.w < r.x + r.w || f.h < r.y + r.h

/-- Step 2 of R130, by R131. -/
def Order.alignBad : Order → Bool
  | .copy c => c.src.alignBad || c.dst.alignBad
  | .fill f => f.dst.alignBad
  | .fence _ _ _ => false
  | .stamp target _ => target.toNat % 8 != 0
  | .unknown => false

/-- Step 3 of R130, by R132. -/
def Order.formatBad : Order → Bool
  | .copy c => Machine.formatBad c.src.format || Machine.formatBad c.dst.format || 3 < c.rotation.toNat
  | .fill f => Machine.formatBad f.dst.format
  | .fence condition _ _ => condition != 1 && condition != 2
  | .stamp _ _ => false
  | .unknown => false

/-- Step 4 of R130, by R133. -/
def Order.geometryBad : Order → Bool
  | .copy c => c.src.geometryBad || c.dst.geometryBad || rectBad c.srcRect c.src || rectBad c.dstRect c.dst
  | .fill f => f.dst.geometryBad || rectBad f.rect f.dst
  | .fence _ _ _ => false
  | .stamp _ _ => false
  | .unknown => false

/-- Step 5 of R130, by R136: an overlapping COPY passes only without rotation, without mirror and with equal formats. -/
def Order.overlapBad : Order → Bool
  | .copy c => c.overlapping && (c.rotation != 0 || c.mirror || c.src.format != c.dst.format)
  | .fill _ => false
  | .fence _ _ _ => false
  | .stamp _ _ => false
  | .unknown => false

/-- R130: the code of the first check that an order fails, or none. -/
def Order.firstFailing (o : Order) : Option Code :=
  if o = .unknown then some .kindBad
  else if o.alignBad then some .alignBad
  else if o.formatBad then some .formatBad
  else if o.geometryBad then some .geometryBad
  else if o.overlapBad then some .overlapBad
  else none

/-! ### The view hold (R139) -/

/-- The destination surface and rectangle of an order that writes pixels. -/
def Order.target : Order → Option (OrderSurface × Rect)
  | .copy c => some (c.dst, c.dstRect)
  | .fill f => some (f.dst, f.rect)
  | .fence _ _ _ => none
  | .stamp _ _ => none
  | .unknown => none

/-- R139: an order overlaps the in-view table when some entry has its destination's base and pitch and intersects its
destination rectangle. -/
def Order.inView (o : Order) (table : List ViewEntry) : Bool :=
  match o.target with
  | none => false
  | some (f, r) => table.any fun e => e.base == f.base && e.pitch == f.pitch && e.rect.intersects r

end Sys2Proof.Machine
end

