-- ==== Sys2Proof/Machine/PaintOps.lean ====
section
/-! DEFINITION. The shared operations of the paint engine: the reads of the chain, the ending of an order, the rows of a
COPY or FILL, the fence tests, and what other blocks' events do to it (chapters 6 and 7). -/

namespace Sys2Proof.Machine

/-! ### The chain (R108, R109) -/

/-- R109: the order a link or head pointer names, or none for the values 0 to 7. -/
def nextOrder (link : Word) : Option Word :=
  if link.toNat < 8 then none else some (link &&& 0xFFFFFFF8)

/-- The held order updated by `f`. -/
def modHeld (f : Held → Held) : State → State :=
  State.modPaint fun p => { p with held := p.held.map f }

/-- The engine put in a state. -/
def setEngine (e : EngineState) : State → State :=
  State.modPaint fun p => { p with engine := e }

/-- A read of one chain word: the engine enters LOADING. -/
def readWord (kind : BurstKind) (a : Nat) (s : State) : State :=
  issuePaint [burstAt kind a 4 []] (setEngine .loading s)

/-- R109, R183: a read of the paint head pointer. -/
def readHeadPointer (kind : BurstKind) (s : State) : State :=
  readWord kind (controlAddr 0x18 s) s

/-- R113, R186: the head read of the order at `a`, in one burst or two, the lower address first (log entry 34). -/
def readOrderHead (a : Word) (s : State) : State :=
  let bs := runBursts (.orderHead a) a.toNat 12 []
  issuePaint bs
    (s.modPaint fun p =>
      { p with engine := .loading, buf := List.replicate 12 0, bufLeft := bs.length, bufErr := none })

/-- R117, R126: the tail is re-read: the link of the order at the chain position, or the head pointer when it is 0. -/
def rereadTail (s : State) : State :=
  if s.paint.chainPos = 0 then readHeadPointer .tail s else readWord .tail s.paint.chainPos.toNat s

/-- R112, R113, R115, R116: the tail is reached, and the passed-over count returns to 0. -/
def enterTail : State → State :=
  State.modPaint fun p => { p with engine := .atTail, passedOver := 0 }

/-- The walk goes on from a link: to the order it names, or to the tail (R113, R115). -/
def followLink (link : Word) (s : State) : State :=
  match nextOrder link with
  | none => enterTail s
  | some a => readOrderHead a s

/-- The engine enters HALTED and raises PAINT_HALTED. -/
def halt (s : State) : State :=
  raise .paintHalted (setEngine .halted s)

/-- A fault report of the paint engine (section 6.6). -/
def reportPaint (code : Code) (addr : Word) : State → State :=
  report { source := .paint, code := code, slot := none, window := none, seq := 0, addr := addr }

/-- R123: an ERROR on a read made while no order is held. -/
def haltOnError (addr : Word) (s : State) : State :=
  halt (reportPaint .busFault addr s)

/-- R111: the chain position takes a value, and a status block is asked for when the value is a different one. -/
def setChainPos (a : Word) (s : State) : State :=
  let s' := s.modPaint fun p => { p with chainPos := a }
  if s.paint.chainPos = a then s' else askBlock s'

/-! ### Ending an order (R115, R145) -/

/-- R108: the write of a status word: state byte, code byte and two bytes 0. -/
def statusWordBurst (kind : BurstKind) (addr : Word) (state : Byte) (code : Code) : Burst :=
  burstAt kind (addr.toNat + 4) 4 [state, code.toByte, 0, 0]

/-- Whether a write of the held order is issued and has not answered. -/
def orderWritesOpen (s : State) : Bool :=
  s.port.paint.any (fun b => b.kind.isWrite) ||
    s.port.write.any fun pl => !pl.abandoned && pl.burst.kind.requester == .paint

/-- R115, R124, R145: the decided final status is issued once every write of the order already issued has answered. -/
def tryFinish (s : State) : State :=
  match s.paint.held with
  | none => s
  | some h =>
    match h.decided with
    | none => s
    | some f =>
      if (h.phase = .running || h.phase = .faulted) && !orderWritesOpen s then
        issuePaint [statusWordBurst .final h.addr f.stateByte f.code] (modHeld (fun h => { h with phase := .closing }) s)
      else s

/-- An order in RUNNING gets its final status: the engine is EXECUTING from then on (R142). -/
def settleFinal (f : FinalStatus) (s : State) : State :=
  modHeld (fun h => { h with decided := some f }) (setEngine .executing s)

/-- An order in RUNNING gets its final status, issued as soon as R145 lets it be. -/
def finish (f : FinalStatus) (s : State) : State :=
  tryFinish (settleFinal f s)

/-- The bursts of the engine not yet granted are withdrawn, but for a final status write, and its granted reads are
discarded when they answer (R121, R124). -/
def withdrawPaint : State → State :=
  State.modPort fun p =>
    Port.dropReads (fun k => k.requester == .paint) { p with paint := p.paint.filter fun b => b.kind == .final }

/-- R124: an ERROR on a read or write of the held order in SEEN or RUNNING. -/
def faultHeld (addr : Word) (s : State) : State :=
  tryFinish
    (modHeld (fun h => { h with phase := .faulted, decided := some .fault })
      (setEngine .executing (withdrawPaint (reportPaint .busFault addr s))))

/-! ### The rows of a COPY or FILL (R137, R138) -/

/-- The address of a pixel of a surface (R31). -/
def OrderSurface.pixelAddr (f : OrderSurface) (col row : Nat) : Nat :=
  f.base.toNat + row * f.pitch + col * formatBytes f.format

/-- The number of destination rows of an order. -/
def Order.rows : Order → Nat
  | .copy c => c.dstH
  | .fill f => f.rect.h
  | .fence _ _ _ => 0
  | .stamp _ _ => 0
  | .unknown => 0

/-- R137: the source runs of destination row `row`, as address, length and offset in the row buffer: one run along a
source row, or one pixel of each source row for a turned COPY. -/
def CopyFields.rowRuns (c : CopyFields) (row : Nat) : List (Nat × Nat × Nat) :=
  let bpp := formatBytes c.src.format
  if c.turned then
    (List.range c.h).map fun j =>
      (c.src.pixelAddr (c.sx + (c.sourceOf 0 row).1) (c.sy + j), bpp, j * bpp)
  else [(c.src.pixelAddr c.sx (c.sy + (c.sourceOf 0 row).2), c.w * bpp, 0)]

/-- The reads of a destination row of a COPY, cut as R161 says. -/
def CopyFields.rowReads (c : CopyFields) (row : Nat) : List Burst :=
  (c.rowRuns row).flatMap fun run => runBursts (fun o => .copySrc (run.2.2 + o)) run.1 run.2.1 []

/-- How many source pixels a destination row reads. -/
def CopyFields.rowPixels (c : CopyFields) : Nat :=
  if c.turned then c.h else c.w

/-- The place in the row buffer of the source pixel that destination column `col` receives. -/
def CopyFields.bufferIndex (c : CopyFields) (row col : Nat) : Nat :=
  if c.turned then (c.sourceOf col row).2 else (c.sourceOf col row).1

/-- R134, R135: the bytes of a destination row, from the row buffer. -/
def CopyFields.rowBytes (c : CopyFields) (src : List Byte) (row : Nat) : List Byte :=
  let bpp := formatBytes c.src.format
  (List.range c.dstW).flatMap fun col =>
    let raw := (src.drop (c.bufferIndex row col * bpp)).take bpp
    match Format.ofByte c.src.format, Format.ofByte c.dst.format with
    | some f, some g => convertPixel f g raw
    | _, _ => raw

/-- R137: the writes of a destination row, in ascending address order. -/
def rowWrites (f : OrderSurface) (x row : Nat) (bytes : List Byte) : List Burst :=
  runBursts (fun _ => .pixel) (f.pixelAddr x row) bytes.length bytes

/-- R138: the bytes of a row of a FILL. -/
def FillFields.rowBytes (f : FillFields) : List Byte :=
  match Format.ofByte f.dst.format with
  | some g => (List.replicate f.rect.w (rawOfRgb g f.colour)).flatten
  | none => []

/-- The next destination row of the held order is begun: a COPY reads the row's source pixels, a FILL writes the row. -/
def startRow (s : State) : State :=
  match s.paint.held with
  | none => s
  | some h =>
    match h.order with
    | .copy c =>
      let bs := c.rowReads (c.rowIndex h.row)
      issuePaint bs
        (modHeld
          (fun h => { h with src := List.replicate (c.rowPixels * formatBytes c.src.format) 0, srcLeft := bs.length }) s)
    | .fill f => issuePaint (rowWrites f.dst f.rect.x (f.rect.y + h.row) f.rowBytes) s
    | .fence _ _ _ => s
    | .stamp _ _ => s
    | .unknown => s

/-- R137: the row's reads are complete, and its writes are issued. -/
def writeRow (h : Held) (s : State) : State :=
  match h.order with
  | .copy c =>
    issuePaint (rowWrites c.dst c.dx (c.dy + c.rowIndex h.row) (c.rowBytes h.src (c.rowIndex h.row))) s
  | .fill _ => s
  | .fence _ _ _ => s
  | .stamp _ _ => s
  | .unknown => s

/-- The writes of a row have answered: the next row is begun, or the order ends DONE. -/
def nextRow (h : Held) (s : State) : State :=
  if h.row + 1 < h.order.rows then startRow (modHeld (fun h => { h with row := h.row + 1 }) s)
  else finish .done (modHeld (fun h => { h with row := h.row + 1 }) s)

/-! ### Fences (R141, R142) -/

/-- R141: the condition of a fence, tested against the part as it stands. -/
def fenceTrue (condition : Byte) (value : Word) (s : State) : Bool :=
  if condition = 1 then s.loader.hasShown && (s.loader.shownSeq == value || newer s.loader.shownSeq value)
  else s.scan.frameCounter == value || newer s.scan.frameCounter value

/-- R142: the test of a waiting fence at a take-over. -/
def testFence (s : State) : State :=
  if s.paint.engine = .waiting then
    match s.paint.held.map Held.order with
    | some (.fence condition value _) => if fenceTrue condition value s then finish .done s else s
    | _ => s
  else s

/-- R142: the test and, when `counted`, the count of a waiting fence at a latch point. The write of a TIMED_OUT decided
here is issued by the step FENCE_TIMED_OUT (log entry 7). -/
def latchFence (counted : Bool) (s : State) : State :=
  match s.paint.held.map Held.order with
  | some (.fence condition value timeout) =>
    if fenceTrue condition value s then finish .done s
    else if counted && timeout != 0 then
      let s' := s.modPaint fun p => { p with fenceCount := p.fenceCount + 1 }
      if s.paint.fenceCount + 1 = timeout then settleFinal .timedOut s' else s'
    else s
  | _ => s

/-- R117, R127, R142: what a latch point does to the engine; `counted` is false at the entry to RUNNING (R67). -/
def latchPaint (counted : Bool) (s : State) : State :=
  if s.paint.engine = .atTail then rereadTail s
  else if s.paint.engine = .waiting then latchFence counted s
  else s

/-- R143: entry to OFF ends a waiting fence with NO_OUTPUT. -/
def endFenceAtOff (s : State) : State :=
  if s.paint.engine = .waiting then finish .noOutput s else s

/-- R140: a HELD order is tested again against the in-view table, and carried out when it no longer overlaps. -/
def retestHold (s : State) : State :=
  if s.paint.engine = .held then
    match s.paint.held with
    | none => s
    | some h => if h.order.inView s.loader.inView then s else startRow (setEngine .executing s)
  else s

/-! ### Carrying an order out (R114, R130) -/

/-- The ACTIVE write of the held order is issued (R145). -/
def issueActive (h : Held) : State → State :=
  issuePaint [statusWordBurst .active h.addr 2 .none]

/-- R139, R142, R144: an order that has passed its checks. -/
def carryOut (h : Held) (s : State) : State :=
  match h.order with
  | .copy _ =>
    if h.order.inView s.loader.inView && !h.flags.getLsbD 1 then setEngine .held (issueActive h s)
    else startRow (issueActive h s)
  | .fill _ =>
    if h.order.inView s.loader.inView && !h.flags.getLsbD 1 then setEngine .held (issueActive h s)
    else startRow (issueActive h s)
  | .fence condition value _ =>
    if fenceTrue condition value s then finish .done s
    else setEngine .waiting (issueActive h (s.modPaint fun p => { p with fenceCount := 0 }))
  | .stamp target token =>
    issuePaint [burstAt .stamp target.toNat 8 (le32 token ++ le32 s.scan.frameCounter)] s
  | .unknown => s

/-- R114, R130: the held order enters RUNNING with its fields, the engine is EXECUTING, and the checks are applied. -/
def beginOrder (o : Order) (s : State) : State :=
  let s' := setEngine .executing (modHeld (fun h => { h with order := o, phase := .running }) s)
  match s'.paint.held with
  | none => s'
  | some h =>
    match o.firstFailing with
    | some code => finish (.refused code) s'
    | none => carryOut h s'

/-! ### RUN PAINT (R112, R121, R122) -/

/-- R112, R122: PAINT 1 starts a walk when the engine is STOPPED, and is no request in any other state. -/
def paintOn (s : State) : State :=
  if s.paint.engine = .stopped then
    let s' := setChainPos 0 (s.modPaint fun p => { p with engine := .loading, passedOver := 0 })
    if s.paint.held.isSome then s'.modPaint fun p => { p with reenable := true } else readHeadPointer .headPointer s'
  else s

/-- R121: what a PAINT clear makes of the held order. -/
def clearHeld (h : Held) (s : State) : State :=
  match h.phase with
  | .seen => s.modPaint fun p => { p with held := none }
  | .running => tryFinish (modHeld (fun h => { h with decided := some .aborted, oldWalk := true }) s)
  | .faulted => modHeld (fun h => { h with oldWalk := true }) s
  | .closing => modHeld (fun h => { h with oldWalk := true }) s

/-- R121, R122: PAINT 0 makes the engine STOPPED at once, and is no request in STOPPED. -/
def paintOff (s : State) : State :=
  if s.paint.engine = .stopped then s
  else
    let s' := withdrawPaint (s.modPaint fun p => { p with engine := .stopped, reenable := false })
    match s.paint.held with
    | none => s'
    | some h => clearHeld h s'

end Sys2Proof.Machine
end

