-- ==== Sys2Proof/Machine/PaintEngine.lean ====
section
/-! DEFINITION. The commands of the paint engine (chapters 6 and 7): the responses to its reads and writes, CHAIN_LOOP
and FENCE_TIMED_OUT. -/

namespace Sys2Proof.Machine

/-! ### Reads made while no order is held (R112, R113, R115, R117, R123) -/

/-- The answer to a read of one chain word while the engine is LOADING: a link that is followed, or an ERROR that halts
the engine. -/
def answerWord (b : Burst) (a : Answer) (onWord : Word → State → State) (s : State) : State :=
  if s.paint.engine = .loading then
    match a with
    | none => haltOnError b.addr s
    | some data => onWord (u32 data 0) s
  else s

/-- R112: the answer to the head pointer read at the start of a walk. -/
def answerHeadPointer (b : Burst) (a : Answer) (s : State) : State :=
  answerWord b a followLink s

/-- HEAD_POINTER_READ_RESPONSE. -/
def execHeadPointerReadResponse (tag : Nat) (r : Response) (s : State) : Host.Outcome State Fault Refusal :=
  live (respond (fun k => k == .headPointer) tag r answerHeadPointer) s

/-- R115: the answer to the link read after an order has ended. -/
def answerLink (b : Burst) (a : Answer) (s : State) : State :=
  answerWord b a followLink s

/-- LINK_READ_RESPONSE. -/
def execLinkReadResponse (tag : Nat) (r : Response) (s : State) : Host.Outcome State Fault Refusal :=
  live (respond (fun k => k == .link) tag r answerLink) s

/-- R117: a tail re-read that finds no order returns to AT_TAIL with the passed-over count unchanged. -/
def followTail (link : Word) (s : State) : State :=
  match nextOrder link with
  | none => setEngine .atTail s
  | some a => readOrderHead a s

/-- R117: the answer to a tail re-read or to the read of a RESUME. -/
def answerTail (b : Burst) (a : Answer) (s : State) : State :=
  answerWord b a followTail s

/-- TAIL_REREAD_RESPONSE. -/
def execTailRereadResponse (tag : Nat) (r : Response) (s : State) : Host.Outcome State Fault Refusal :=
  live (respond (fun k => k == .tail) tag r answerTail) s

/-! ### The head of an order (R113, R116) -/

/-- R113: an order found PENDING is held in SEEN, and its remainder is read, the lower address first (log entry 34); for a
kind without remainder it is checked at once (R114). -/
def holdOrder (a : Word) (head : List Byte) (s : State) : State :=
  let n := remainderLength (u8 head 8)
  let bs := runBursts .remainder (a.toNat + 12) n []
  let s' :=
    s.modPaint fun p =>
      { p with
        held :=
          some
            { addr := a, kind := u8 head 8, flags := u8 head 9, order := .unknown, phase := .seen, decided := none,
              oldWalk := false, row := 0, src := [], srcLeft := 0 },
        passedOver := 0, buf := List.replicate n 0, bufLeft := bs.length, bufErr := none }
  if n = 0 then beginOrder .unknown s' else issuePaint bs s'

/-- R113, R116: an order found in any other state is passed over; its link is followed while the count is below 256, and
at 256 the engine stands until the step CHAIN_LOOP (log entry 7). -/
def passOver (head : List Byte) (s : State) : State :=
  let s' := s.modPaint fun p => { p with passedOver := p.passedOver + 1 }
  if s.paint.passedOver + 1 < 256 then followLink (u32 head 0) s' else s'

/-- R113: the head of the order at `a` has been read. -/
def headRead (a : Word) (head : List Byte) (s : State) : State :=
  if u8 head 4 = 1 then holdOrder a head (setChainPos a s) else passOver head (setChainPos a s)

/-- R186: one burst of a read in progress has answered. -/
def gather (b : Burst) (off : Nat) (a : Answer) : State → State :=
  State.modPaint fun p =>
    { p with
      bufLeft := p.bufLeft - 1,
      buf := match a with | some data => putBytes p.buf off data | none => p.buf,
      bufErr := match a with | some _ => p.bufErr | none => p.bufErr.orElse fun _ => some b.addr }

/-- R113, R123, R186: the answer to a burst of a head read; the head read answers when all its bursts have. -/
def answerOrderHead (b : Burst) (a : Answer) (s : State) : State :=
  match b.kind with
  | .orderHead addr off =>
    if s.paint.engine = .loading then
      let s' := gather b off a s
      if s'.paint.bufLeft = 0 then
        match s'.paint.bufErr with
        | some e => haltOnError e s'
        | none => headRead addr s'.paint.buf s'
      else s'
    else s
  | _ => s

/-- Whether a burst is a read of an order's head. -/
def BurstKind.isOrderHead (k : BurstKind) : Bool :=
  match k with
  | .orderHead _ _ => true
  | _ => false

/-- ORDER_HEAD_READ_RESPONSE. -/
def execOrderHeadReadResponse (tag : Nat) (r : Response) (s : State) : Host.Outcome State Fault Refusal :=
  live (respond BurstKind.isOrderHead tag r answerOrderHead) s

/-- R116: the passed-over count has reached 256. -/
def chainLoopDue (s : State) : Bool :=
  s.paint.engine == .loading && s.paint.passedOver == 256

/-- R116: the loop limit: CHAIN_LOOP is reported with the chain position, and the engine halts. -/
def loopHalt (s : State) : State :=
  if chainLoopDue s then halt (reportPaint .chainLoop s.paint.chainPos s) else s

/-- CHAIN_LOOP. -/
def execChainLoop (s : State) : Host.Outcome State Fault Refusal :=
  live loopHalt s

/-! ### The remainder (R114, R124) -/

/-- R114, R124: the answer to a burst of a remainder read; the fields are taken when every burst has answered. -/
def answerRemainder (b : Burst) (a : Answer) (s : State) : State :=
  match b.kind, s.paint.held with
  | .remainder off, some h =>
    if h.phase = .seen then
      match a with
      | none => faultHeld b.addr s
      | some _ =>
        let s' := gather b off a s
        if s'.paint.bufLeft = 0 then beginOrder (parseOrder h.kind s'.paint.buf) s' else s'
    else s
  | _, _ => s

/-- Whether a burst is a read of a held order's remainder. -/
def BurstKind.isRemainder (k : BurstKind) : Bool :=
  match k with
  | .remainder _ => true
  | _ => false

/-- REMAINDER_READ_RESPONSE. -/
def execRemainderReadResponse (tag : Nat) (r : Response) (s : State) : Host.Outcome State Fault Refusal :=
  live (respond BurstKind.isRemainder tag r answerRemainder) s

/-! ### Writes and reads of the held order (R121, R124, R137, R144, R145) -/

/-- The answer to a read or write of the held order: `onOk` is what an OK lets an order of the walk do. An ERROR faults
an order in RUNNING (R124), is only reported for an order that a PAINT clear has aborted (R121), and is not reported
again for an order already FAULTED (R124). A decided final status is issued when the last write has answered (R145). -/
def answerHeld (b : Burst) (a : Answer) (onOk : Held → State → State) (s : State) : State :=
  match s.paint.held with
  | none => s
  | some h =>
    match h.phase with
    | .seen => s
    | .closing => s
    | .faulted => tryFinish s
    | .running =>
      match a with
      | none => if h.oldWalk then tryFinish (reportPaint .busFault b.addr s) else faultHeld b.addr s
      | some _ => if h.decided.isSome then tryFinish s else onOk h s

/-- R145: the answer to the ACTIVE write. -/
def answerActive (b : Burst) (a : Answer) (s : State) : State :=
  answerHeld b a (fun _ s => s) s

/-- ACTIVE_WRITE_RESPONSE. -/
def execActiveWriteResponse (tag : Nat) (r : Response) (s : State) : Host.Outcome State Fault Refusal :=
  live (respond (fun k => k == .active) tag r answerActive) s

/-- R137: a source read of a COPY placed in the row buffer; the row's writes are issued when all its reads have
answered. -/
def takeSource (off : Nat) (data : List Byte) (h : Held) (s : State) : State :=
  let h' := { h with src := putBytes h.src off data, srcLeft := h.srcLeft - 1 }
  let s' := modHeld (fun _ => h') s
  if h'.srcLeft = 0 then writeRow h' s' else s'

/-- R137: the answer to a COPY source read. -/
def answerCopyRead (b : Burst) (a : Answer) (s : State) : State :=
  match b.kind with
  | .copySrc off => answerHeld b a (takeSource off (a.getD [])) s
  | _ => s

/-- Whether a burst is a COPY source read. -/
def BurstKind.isCopySrc (k : BurstKind) : Bool :=
  match k with
  | .copySrc _ => true
  | _ => false

/-- COPY_READ_RESPONSE. -/
def execCopyReadResponse (tag : Nat) (r : Response) (s : State) : Host.Outcome State Fault Refusal :=
  live (respond BurstKind.isCopySrc tag r answerCopyRead) s

/-- R137, R138: the row goes on, or its last write has answered and the next row or DONE follows. -/
def rowWritten (h : Held) (s : State) : State :=
  if orderWritesOpen s then s else nextRow h s

/-- R137: the answer to a pixel write. -/
def answerPixel (b : Burst) (a : Answer) (s : State) : State :=
  answerHeld b a rowWritten s

/-- PIXEL_WRITE_RESPONSE. -/
def execPixelWriteResponse (tag : Nat) (r : Response) (s : State) : Host.Outcome State Fault Refusal :=
  live (respond (fun k => k == .pixel) tag r answerPixel) s

/-- R144: the answer to the STAMP data write. -/
def answerStamp (b : Burst) (a : Answer) (s : State) : State :=
  answerHeld b a (fun _ => finish .done) s

/-- STAMP_WRITE_RESPONSE. -/
def execStampWriteResponse (tag : Nat) (r : Response) (s : State) : Host.Outcome State Fault Refusal :=
  live (respond (fun k => k == .stamp) tag r answerStamp) s

/-! ### FENCE_TIMED_OUT (R142) -/

/-- R142: the fence whose count has reached its timeout is issued TIMED_OUT, once its ACTIVE write has answered. -/
def issueTimedOut (s : State) : State :=
  match s.paint.held with
  | none => s
  | some h => if h.phase = .running && h.decided == some .timedOut then tryFinish s else s

/-- FENCE_TIMED_OUT. -/
def execFenceTimedOut (s : State) : Host.Outcome State Fault Refusal :=
  live issueTimedOut s

/-! ### The final status write answered (R115, R122, R124, R125, R146) -/

/-- R146: the final statuses that raise PAINT_NOTIFY for an order with NOTIFY set. -/
def FinalStatus.notifies : FinalStatus → Bool
  | .done => true
  | .refused _ => true
  | .timedOut => true
  | .noOutput => true
  | .fault => false
  | .aborted => false

/-- The held order released (R110). -/
def releaseHeld : State → State :=
  State.modPaint fun p => { p with held := none }

/-- R146: PAINT_NOTIFY, for a final status write that answered OK. -/
def notify (h : Held) (f : FinalStatus) (s : State) : State :=
  if h.flags.getLsbD 0 && f.notifies then raise .paintNotify s else s

/-- R122: the walk re-enabled while the last write of the walk before was open now reads the head pointer. -/
def resumeWalk (s : State) : State :=
  if s.paint.reenable then readHeadPointer .headPointer (s.modPaint fun p => { p with reenable := false }) else s

/-- R115, R122, R124, R125, R146: the answer to the final status write of `h`, whose status is `f`. -/
def closeOrder (h : Held) (f : FinalStatus) (a : Answer) (s : State) : State :=
  match a with
  | some _ =>
    let s' := notify h f (releaseHeld s)
    if h.oldWalk then resumeWalk s' else if f = .fault then halt s' else readWord .link h.addr.toNat s'
  | none =>
    let s' := releaseHeld (reportPaint .busFault h.addr s)
    if h.oldWalk then resumeWalk s' else halt s'

/-- R115: the answer to a final status write. -/
def answerFinal (_ : Burst) (a : Answer) (s : State) : State :=
  match s.paint.held with
  | none => s
  | some h =>
    match h.phase, h.decided with
    | .closing, some f => closeOrder h f a s
    | _, _ => s

/-- FINAL_STATUS_WRITE_RESPONSE. -/
def execFinalStatusWriteResponse (tag : Nat) (r : Response) (s : State) : Host.Outcome State Fault Refusal :=
  live (respond (fun k => k == .final) tag r answerFinal) s

end Sys2Proof.Machine
end

