-- ==== Sys2Proof/Config.lean ====
section
/-! DEFINITION. What the spec leaves open: the free values. -/

namespace Sys2Proof

/-- R175: "one write that changes several of them sets no order among their effects". A free value: whether the
`n`-th accepted RUN write reaches the scan timing unit before the paint engine. It has no body, so a claim about a
RUN write holds for both orders. Log entry 3. -/
opaque Config.runOutputFirst : Nat → Bool

end Sys2Proof
end

