-- ==== Sys2Proof/Machine/FaultOps.lean ====
section
/-! DEFINITION. The fault unit and the status writer (chapter 8): FAULT_REPORT, STATUS_BLOCK_WRITE, ERROR_RECORD_WRITE,
COUNT_WRITE, STATUS_WRITER_RESPONSE, and the effect of CLEAR_FAULT. -/

namespace Sys2Proof.Machine

/-! ### The fault unit (R149, R151) -/

/-- R148: the record a report becomes, with the frame counter as it stands when the report is taken. -/
def recordOf (r : Report) (frame : Word) : FaultRecord :=
  { code := r.code, source := some r.source, slot := r.slot, window := r.window, seq := r.seq, addr := r.addr, frame := frame }

/-- R149: a report taken with the latch clear becomes the error record. -/
def latchReport (r : Report) (s : State) : State :=
  raise .errorLatched
    (askBlock
      (askRecord (s.modFault fun f => { f with latch := true, record := recordOf r s.scan.frameCounter, later := 0 })))

/-- R149: a report taken with the latch set advances the later-error count, which stays at 65535. -/
def countReport (s : State) : State :=
  if s.fault.later < 65535 then askCount (s.modFault fun f => { f with later := f.later + 1 }) else s

/-- R149: the fault unit takes the oldest report of a source; without one there is nothing to take. -/
def takeReport (source : Source) (s : State) : State :=
  match s.fault.reports.find? fun r => r.source == source with
  | none => s
  | some r =>
    let s' := s.modFault fun f => { f with reports := f.reports.eraseP fun r => r.source == source }
    if s.fault.latch then countReport s' else latchReport r s'

/-- FAULT_REPORT. -/
def execFaultReport (source : Source) (s : State) : Host.Outcome State Fault Refusal :=
  live (takeReport source) s

/-- R151: CLEAR_FAULT clears a set latch, and changes nothing while the latch is clear. -/
def clearLatch (s : State) : State :=
  if s.fault.latch then
    askBlock
      (askRecord
        (s.modFault fun f => { f with latch := false, later := 0, record := { f.record with code := .none } }))
  else s

/-! ### The status writer (R153 to R156) -/

/-- A run of the control block as the status writer writes it, in one burst (R183). -/
def statusBurst (s : State) (offset : Nat) (data : List Byte) : Burst :=
  burstAt .status (controlAddr offset s) data.length data

/-- R154, R187: bytes 4 to 27 of the status block, as they stand at the capture. -/
def blockFields (s : State) : List Byte :=
  le32 s.scan.frameCounter ++ le32 s.loader.shownSeq ++
    [slotByte s.loader.shownSlot, BitVec.ofNat 8 s.scan.output.toNat, BitVec.ofNat 8 s.paint.engine.toNat,
      if s.fault.latch then 1 else 0] ++
    le32 s.paint.chainPos ++ le32 s.fetch.underruns ++ le32 ((s.scan.timing.map Timing.tag).getD 0)

/-- R154: the three bursts of a status block write with update number `n`. -/
def blockBursts (n : Word) (s : State) : List Burst :=
  [statusBurst s 0xA0 (le32 n), statusBurst s 0xA4 (blockFields s), statusBurst s 0xBC (le32 n)]

/-- R153, R154: the idle writer begins a status block write when no other request is pending. -/
def beginBlock (s : State) : State :=
  if !s.writer.busy && s.writer.wantBlock && !s.writer.wantRecord && !s.writer.wantCount then
    issueStatus (blockBursts (s.writer.update + 1) s)
      (s.modWriter fun w => { w with update := w.update + 1, wantBlock := false, busy := true })
  else s

/-- STATUS_BLOCK_WRITE. -/
def execStatusBlockWrite (s : State) : Host.Outcome State Fault Refusal :=
  live beginBlock s

/-- R187: the first word of the error record: code, source, slot, window index. -/
def recordWord (r : FaultRecord) : List Byte :=
  [r.code.toByte, sourceByte r.source, slotByte r.slot, windowByte r.window]

/-- R155, R187: the count word of the error record. -/
def countBurst (s : State) : Burst :=
  statusBurst s 0xD0 (le32 (BitVec.ofNat 32 s.fault.later))

/-- R155: the bursts of an error record write: the whole record, or its first word alone when the code is NONE, and then
the count word. -/
def recordBursts (s : State) : List Burst :=
  if s.fault.record.code = .none then
    [statusBurst s 0xC0 (recordWord s.fault.record), statusBurst s 0xD0 (le32 0)]
  else
    [statusBurst s 0xC0
        (recordWord s.fault.record ++ le32 s.fault.record.seq ++ le32 s.fault.record.addr ++ le32 s.fault.record.frame),
      countBurst s]

/-- R153, R155: the idle writer begins an error record write, which also removes a pending count request. -/
def beginRecord (s : State) : State :=
  if !s.writer.busy && s.writer.wantRecord then
    issueStatus (recordBursts s) (s.modWriter fun w => { w with wantRecord := false, wantCount := false, busy := true })
  else s

/-- ERROR_RECORD_WRITE. -/
def execErrorRecordWrite (s : State) : Host.Outcome State Fault Refusal :=
  live beginRecord s

/-- R153, R155: the idle writer begins a count write when no error record request is pending. -/
def beginCount (s : State) : State :=
  if !s.writer.busy && s.writer.wantCount && !s.writer.wantRecord then
    issueStatus [countBurst s] (s.modWriter fun w => { w with wantCount := false, busy := true })
  else s

/-- COUNT_WRITE. -/
def execCountWrite (s : State) : Host.Outcome State Fault Refusal :=
  live beginCount s

/-- R156: the answer to a write of the status writer, OK or ERROR alike: the writer is idle again when its last burst has
answered (log entry 11). -/
def answerStatus (_ : Burst) (_ : Answer) (s : State) : State :=
  if s.port.status.isEmpty then s.modWriter fun w => { w with busy := false } else s

/-- Whether a burst is a write of the status writer. -/
def BurstKind.isStatus (k : BurstKind) : Bool :=
  k == .status

/-- STATUS_WRITER_RESPONSE. -/
def execStatusWriterResponse (tag : Nat) (r : Response) (s : State) : Host.Outcome State Fault Refusal :=
  live (respond BurstKind.isStatus tag r answerStatus) s

end Sys2Proof.Machine
end

