-- ==== Sys2Proof/Machine/Compose.lean ====
section
/-! DEFINITION. The compositor and the panel output (chapter 4, with R65 and R71 for the panel lines): the lists of a
line, the resolution of a pixel, source addressing, motion, and the pins. -/

namespace Sys2Proof.Machine

/-! ### Source addressing (R82, R83) -/

/-- The non-negative remainder of a ring position (00, Conventions). -/
def ringMod (a : Int) (size : Nat) : Nat :=
  (a % (size : Int)).toNat

/-- R82, R83: the surface row that line `y` of a window reads. -/
def sourceRow (dst : Rect) (sf : Surface) (o : Option Offset) (y : Nat) : Nat :=
  match sf.ring with
  | none => sf.srcY + (y - dst.y)
  | some r =>
    match o with
    | none => sf.srcY + (y - dst.y)
    | some o => r.y + ringMod (((o.row : Int) - r.y) + ((y : Int) - dst.y)) r.h

/-- R82, R83: the surface column that panel column `x` of a window reads. -/
def sourceCol (dst : Rect) (sf : Surface) (o : Option Offset) (x : Nat) : Nat :=
  match sf.ring with
  | none => sf.srcX + (x - dst.x)
  | some r =>
    match o with
    | none => sf.srcX + (x - dst.x)
    | some o => r.x + ringMod (((o.col : Int) - r.x) + ((x : Int) - dst.x)) r.w

/-! ### Motion (R84, R85) -/

/-- R84: the offset a window starts from at its take-over: the source origin of a ring window. -/
def startOffset (w : Window) : Option Offset :=
  match w.content with
  | .fill _ => none
  | .surface sf => if sf.ring.isSome then some { col := sf.srcX, row := sf.srcY } else none

/-- R85: the offset of a window moved by its steps, modulo its ring. -/
def advanceOffset (w : Window) (o : Option Offset) : Option Offset :=
  match w.content with
  | .fill _ => o
  | .surface sf =>
    match sf.ring, sf.motion, o with
    | some r, some m, some o =>
      some
        { col := r.x + ringMod ((o.col : Int) - r.x + m.stepX) r.w,
          row := r.y + ringMod ((o.row : Int) - r.y + m.stepY) r.h }
    | _, _, _ => o

/-- R84: the take-over reset of the motion offsets. -/
def resetOffsets (s : State) : State :=
  s.modComp fun c => { c with offsets := s.loader.shownTable.map startOffset }

/-- R85: the motion advance of a frame open at which the shown scene runs on. -/
def advanceOffsets (s : State) : State :=
  s.modComp fun c => { c with offsets := List.zipWith advanceOffset s.loader.shownTable c.offsets }

/-- R88: every fault flag cleared. -/
def clearFlags : State → State :=
  State.modComp fun c => { c with flags := Vector.replicate 16 false }

/-! ### The coming list (R73 to R75) -/

/-- R75: how many columns of a window lie on a panel `w` pixels wide. -/
def clippedCount (dst : Rect) (w : Nat) : Nat :=
  if w ≤ dst.x then 0 else min (dst.x + dst.w) w - dst.x

/-- R73: the unclipped rows of a window include line `y`. -/
def Window.covers (y : Nat) (w : Window) : Bool :=
  w.dst.y ≤ y && y < w.dst.y + w.dst.h

/-- R74: a window as it stands in the coming list for line `y`. -/
def listWindow (s : State) (panelW y pos : Nat) (w : Window) : Listed :=
  { pos := pos, first := w.dst.x, count := clippedCount w.dst panelW,
    row :=
      match w.content with
      | .fill _ => 0
      | .surface sf => sourceRow w.dst sf (s.comp.offsets.getD pos none) y,
    mark := s.comp.flags.toList.getD pos false }

/-- R73, R74: the coming list for active line `y`: every window of the shown table that covers it, lowest first. -/
def comingList (s : State) (panelW y : Nat) : List Listed :=
  (s.loader.shownTable.zipIdx.filter fun p => p.1.covers y).map fun p => listWindow s panelW y p.2 p.1

/-! ### The current list (R76) -/

/-- R76: whether a window of the list whose span stands at `place` is skipped for the line. A FILL window and one with
no visible column are never marked. -/
def skipMark (s : State) (place : Nat) (l : Listed) : Bool :=
  match (s.loader.shownTable[l.pos]?).map Window.content with
  | some (.surface _) =>
    l.count != 0 &&
      (s.comp.flags.toList.getD l.pos false ||
        !((s.fetch.reading[place]?).any fun sp => sp.status == .complete))
  | _ => false

/-- R76: the coming list becomes the current list. The banks have exchanged roles before (R100). -/
def takeList (s : State) : State :=
  s.modComp fun c =>
    { c with current := c.coming.zipIdx.map (fun p => { p.1 with mark := skipMark s p.2 p.1 }), coming := [] }

/-! ### Resolving a pixel (R77 to R81) -/

/-- R81: the blend of one channel. -/
def blendChannel (ratio : Nat) (p v : Byte) : Byte :=
  BitVec.ofNat 8 ((ratio * p.toNat + (16 - ratio) * v.toNat + 8) / 16)

/-- R81: a window's pixel blended over the running value. -/
def blend (ratio : Nat) (p v : Rgb) : Rgb :=
  { r := blendChannel ratio p.r v.r, g := blendChannel ratio p.g v.g, b := blendChannel ratio p.b v.b }

/-- R78: the pixel of a window at position `k` of its span, which stands at `place` of the reading bank. -/
def spanPixel (s : State) (place : Nat) (f : Format) (k : Nat) : Rgb :=
  rgbOfRaw f (((s.fetch.reading[place]?).map Span.data).getD []) (k * f.bytes)

/-- R77: the running value after one window of the current list. -/
def resolveWindow (s : State) (x : Nat) (v : Rgb) (p : Listed × Nat) : Rgb :=
  let l := p.1
  if l.mark || x < l.first || l.first + l.count ≤ x then v
  else
    match s.loader.shownTable[l.pos]? with
    | none => v
    | some w =>
      match w.content with
      | .fill c => blend w.ratio c v
      | .surface sf =>
        let c := spanPixel s p.2 sf.format (x - l.first)
        if sf.key = some c then v else blend w.ratio c v

/-- R77, R71: pixel `x` of the active line being sent. -/
def pixelAt (s : State) (x : Nat) : Rgb :=
  match s.loader.shownSlot with
  | none => (s.scan.timing.map Timing.idle).getD ⟨0, 0, 0⟩
  | some _ => s.comp.current.zipIdx.foldl (resolveWindow s x) s.loader.shownBg

/-! ### The pins (R65, R71, R89, R90) -/

/-- R89: a pixel on the data lines, truncated to the output width. -/
def formatPixel (outWidth : Nat) (c : Rgb) : BitVec 24 :=
  if outWidth = 24 then c.r ++ c.g ++ c.b
  else if outWidth = 18 then
    BitVec.ofNat 24 (c.r.toNat / 4 * 4096 + c.g.toNat / 4 * 64 + c.b.toNat / 4)
  else BitVec.ofNat 24 (c.r.toNat / 8 * 2048 + c.g.toNat / 4 * 32 + c.b.toNat / 8)

/-- The panel lines at one instant: whether PCLK runs, the levels of HSYNC, VSYNC and DE, and D[23:0]. -/
structure PanelPins where
  pclkRuns : Bool
  hsync : Bool
  vsync : Bool
  de : Bool
  data : BitVec 24
  deriving DecidableEq, Repr

/-- R71: the panel lines while no frame is sent; PCLK runs in lock phase LOCKING THE CLOCK alone. -/
def idlePins (s : State) : PanelPins :=
  { pclkRuns := s.scan.output == .locking && s.scan.lockPhase == some .clock,
    hsync := (s.scan.timing.map fun t => !t.hsyncHigh).getD false,
    vsync := (s.scan.timing.map fun t => !t.vsyncHigh).getD false,
    de := false, data := 0 }

/-- R65: the panel lines in a pixel period of a line of a frame. -/
def linePins (t : Timing) (lp : LinePos) (s : State) : PanelPins :=
  let active := lp.line < t.h && t.b ≤ lp.period && lp.period < t.b + t.w
  { pclkRuns := true,
    hsync := if lp.period < t.b / 2 then t.hsyncHigh else !t.hsyncHigh,
    vsync := if lp.line = t.h then t.vsyncHigh else !t.vsyncHigh,
    de := active, data := if active then formatPixel t.outWidth (pixelAt s (lp.period - t.b)) else 0 }

/-- R65, R71, R90: the panel lines. -/
def panelPins (s : State) : PanelPins :=
  match s.scan.timing, s.scan.line with
  | some t, some lp => if s.scan.output = .running ∨ s.scan.output = .parking then linePins t lp s else idlePins s
  | _, _ => idlePins s

end Sys2Proof.Machine
end

