-- ==== Sys2Proof/Machine/LineFetch.lean ====
section
/-! DEFINITION. The line fetch unit (chapter 5): the spans of a line, the begin and end of a fetch, and the responses to
its bursts. -/

namespace Sys2Proof.Machine

/-- R97: the pieces of a ring span, as first ring column and number of pixels; the first argument bounds their number. -/
def ringPieces : Nat → Nat → Nat → Nat → List (Nat × Nat)
  | 0, _, _, _ => []
  | fuel + 1, start, n, width =>
    if n = 0 then [] else (start, min (width - start) n) :: ringPieces fuel 0 (n - min (width - start) n) width

/-- R96, R97: the pieces of a span as first byte address and byte count. -/
def spanPieces (sf : Surface) (o : Option Offset) (row n : Nat) : List (Nat × Nat) :=
  match sf.ring with
  | none => [(sf.base.toNat + row * sf.pitch + sf.srcX * sf.format.bytes, n * sf.format.bytes)]
  | some r =>
    let col := (o.map Offset.col).getD sf.srcX
    (ringPieces n (ringMod ((col : Int) - r.x) r.w) n r.w).map fun p =>
      (sf.base.toNat + row * sf.pitch + (r.x + p.1) * sf.format.bytes, p.2 * sf.format.bytes)

/-- R98: the bursts of a span's pieces, in order; `off` is the offset in the span of the first piece. -/
def pieceBursts (line place : Nat) : Nat → List (Nat × Nat) → List Burst
  | _, [] => []
  | off, p :: rest =>
    runBursts (fun o => .span line place (off + o)) p.1 p.2 [] ++ pieceBursts line place (off + p.2) rest

/-- R95: the span of a window as handed over, and the bursts it requests. -/
def openSpan (s : State) (line place : Nat) (l : Listed) : Span × List Burst :=
  match (s.loader.shownTable[l.pos]?).map Window.content with
  | some (.surface sf) =>
    if l.count = 0 || l.mark then ({ pos := l.pos, status := .none, pieces := [], data := [], left := 0 }, [])
    else
      let pieces := spanPieces sf (s.comp.offsets.getD l.pos none) l.row l.count
      let bs := pieceBursts line place 0 pieces
      ({ pos := l.pos, status := .waiting, pieces := pieces, data := List.replicate (l.count * sf.format.bytes) 0,
         left := bs.length }, bs)
  | _ => ({ pos := l.pos, status := .none, pieces := [], data := [], left := 0 }, [])

/-- R95, R98: the fetch of line `y` begins with the coming list that the compositor hands over. -/
def beginFetch (y : Nat) (s : State) : State :=
  let opened := s.comp.coming.zipIdx.map fun p => openSpan s y p.2 p.1
  issueFetch (opened.flatMap Prod.snd)
    (s.modFetch fun f => { f with active := some y, filling := opened.map Prod.fst })

/-- R73, R74, R95: the coming list for active line `y` is formed and handed over; while no slot is shown no list is
formed. -/
def formLine (panelW y : Nat) (s : State) : State :=
  if s.loader.shownSlot.isSome then
    beginFetch y (s.modComp fun c => { c with coming := comingList s panelW y })
  else s

/-- Whether a burst is a span read (R98). -/
def BurstKind.isSpan : BurstKind → Bool
  | .span _ _ _ => true
  | .timing => false
  | .descriptor _ => false
  | .body _ => false
  | .slotWrite _ _ _ => false
  | .headPointer => false
  | .orderHead _ _ => false
  | .remainder _ => false
  | .link => false
  | .tail => false
  | .active => false
  | .copySrc _ => false
  | .pixel => false
  | .stamp => false
  | .final => false
  | .status => false

/-- R100, R101, R106: the fetch in flight ends: its bursts not yet granted are withdrawn, and those granted are
discarded when they answer. -/
def endBursts : State → State :=
  State.modPort fun p => Port.dropReads BurstKind.isSpan { p with fetch := [] }

/-- R102: the underrun count advanced by one late line, saturating. -/
def bumpUnderruns (n : Word) : Word :=
  if n = 0xFFFFFFFF then n else n + 1

/-- R100: at the start of an active line the fetch ends, the banks exchange roles, and a line with a late span is
counted. -/
def endFetch (s : State) : State :=
  let late := s.fetch.active.isSome && s.fetch.filling.any fun sp => sp.status == .waiting
  let s' :=
    (endBursts s).modFetch fun f =>
      { active := none, filling := f.reading, reading := f.filling,
        underruns := if late then bumpUnderruns f.underruns else f.underruns }
  if late then raise .underrun s' else s'

/-- R106: entry to OFF abandons the fetch and empties both banks. -/
def fetchOff (s : State) : State :=
  (endBursts s).modFetch fun f => { f with active := none, filling := [], reading := [] }

/-- Whether a burst is a read of the span at `place`. -/
def BurstKind.ofSpan (place : Nat) (k : BurstKind) : Bool :=
  match k with
  | .span _ pl _ => pl == place
  | _ => false

/-- R99: an OK burst placed in its span, which is COMPLETE when every burst has answered OK. -/
def placeBytes (place off : Nat) (data : List Byte) : State → State :=
  State.modFetch fun f =>
    { f with
      filling := f.filling.modify place fun sp =>
        { sp with
          data := putBytes sp.data off data, left := sp.left - 1,
          status := if sp.left - 1 = 0 then .complete else sp.status } }

/-- R103: an ERROR on a burst ends its span, marks its window faulted, is reported and raises FETCH_FAULT. -/
def faultSpan (place : Nat) (addr : Word) (s : State) : State :=
  match s.fetch.filling[place]? with
  | none => s
  | some sp =>
    raise .fetchFault
      (report
        { source := .fetch, code := .busFault, slot := s.loader.shownSlot, window := some sp.pos,
          seq := s.loader.shownSeq, addr := addr }
        ((s.modFetch fun f => { f with filling := f.filling.modify place fun sp => { sp with status := .errored } }).modComp
            (fun c => { c with flags := c.flags.setIfInBounds sp.pos true })
          |>.modPort fun p =>
            Port.dropReads (BurstKind.ofSpan place)
              { p with fetch := p.fetch.filter fun b => !b.kind.ofSpan place }))

/-- R99, R103: a response to a burst of the fetch in flight. -/
def answerSpan (b : Burst) (a : Answer) (s : State) : State :=
  match b.kind with
  | .span _ place off =>
    match a with
    | some data => placeBytes place off data s
    | none => faultSpan place b.addr s
  | _ => s

/-- SPAN_BURST_RESPONSE. A burst of an ended fetch is marked to be discarded when its fetch ends (R101). -/
def execSpanBurstResponse (tag : Nat) (r : Response) (s : State) : Host.Outcome State Fault Refusal :=
  live (respond BurstKind.isSpan tag r answerSpan) s

end Sys2Proof.Machine
end

