-- ==== Sys2Proof/Machine/SceneChecks.lean ====
section
/-! DEFINITION. The scene body and its ordered checks (chapter 2): the check value, the record walk, the window checks,
line depth and line budget, and the table entries. -/

namespace Sys2Proof.Machine

/-! ### The check value (R36) -/

/-- One of the eight shifts of the CRC register for one byte. -/
def crcShift (c : Word) : Word :=
  if c.getLsbD 0 then (c >>> 1) ^^^ 0x82F63B78 else c >>> 1

/-- One byte combined into the CRC register. -/
def crcByte (c : Word) (b : Byte) : Word :=
  Nat.repeat crcShift 8 (c ^^^ b.zeroExtend 32)

/-- The 32-bit CRC of a run of bytes. -/
def crc (l : List Byte) : Word :=
  ~~~(l.foldl crcByte 0xFFFFFFFF)

/-- R36: the check value of a scene: sequence, body length, body. -/
def checkValue (seq len : Word) (body : List Byte) : Word :=
  crc (le32 seq ++ le32 len ++ body)

/-! ### Window records (R29, R185) -/

/-- A window record as read, with the fields of the extensions its flags name. -/
structure RawWindow where
  kind : Nat
  format : Byte
  ratio : Nat
  dst : Rect
  colour : Rgb
  base : Word
  pitch : Nat
  sw : Nat
  sh : Nat
  sx : Nat
  sy : Nat
  key : Option Rgb
  ring : Option Rect
  motion : Option Motion
  deriving DecidableEq, Repr

/-- R29: the length of a record, by its kind and flags; a kind other than FILL and SURFACE has none. -/
def recordLength (body : List Byte) (o : Nat) : Nat :=
  if (u8 body o).toNat = 1 then 16
  else 28 + (if flagAt body (o + 3) 0 then 4 else 0) + (if flagAt body (o + 3) 1 then 8 else 0) +
    (if flagAt body (o + 3) 2 then 4 else 0)

/-- R29: where the RING extension of the record at `o` begins. -/
def ringOffset (body : List Byte) (o : Nat) : Nat :=
  o + 28 + (if flagAt body (o + 3) 0 then 4 else 0)

/-- R29: where the MOTION extension of the record at `o` begins. -/
def motionOffset (body : List Byte) (o : Nat) : Nat :=
  ringOffset body o + (if flagAt body (o + 3) 1 then 8 else 0)

/-- R185: the fields of the record at `o`. -/
def parseRecord (body : List Byte) (o : Nat) : RawWindow :=
  { kind := (u8 body o).toNat, format := u8 body (o + 1), ratio := (u8 body (o + 2)).toNat,
    dst := { x := u16 body (o + 4), y := u16 body (o + 6), w := u16 body (o + 8), h := u16 body (o + 10) },
    colour := colourAt body (o + 12), base := u32 body (o + 12), pitch := (u32 body (o + 16)).toNat,
    sw := u16 body (o + 20), sh := u16 body (o + 22), sx := u16 body (o + 24), sy := u16 body (o + 26),
    key := if flagAt body (o + 3) 0 then some (colourAt body (o + 28)) else none,
    ring :=
      if flagAt body (o + 3) 1 then
        some
          { x := u16 body (ringOffset body o), y := u16 body (ringOffset body o + 2),
            w := u16 body (ringOffset body o + 4), h := u16 body (ringOffset body o + 6) }
      else none,
    motion :=
      if flagAt body (o + 3) 2 then
        some { stepX := s16 body (motionOffset body o), stepY := s16 body (motionOffset body o + 2) }
      else none }

/-- Whether a record is a SURFACE record. -/
def RawWindow.isSurface (w : RawWindow) : Bool :=
  w.kind == 2

/-! ### The window checks (R39 to R44) -/

/-- R39: the format is not legal for the kind. -/
def RawWindow.formatBad (w : RawWindow) : Bool :=
  if w.isSurface then w.format != 1 && w.format != 2 else w.format != 0

/-- R40. -/
def RawWindow.fieldConflict (w : RawWindow) : Bool :=
  16 < w.ratio || (!w.isSurface && (w.key.isSome || w.ring.isSome || w.motion.isSome))

/-- R41. -/
def RawWindow.alignBad (w : RawWindow) : Bool :=
  w.isSurface &&
    (w.base.toNat % 8 != 0 || w.pitch % 8 != 0 || w.pitch < 8 || 32768 < w.pitch || w.pitch < w.sw * formatBytes w.format)

/-- R42. -/
def RawWindow.geometryBad (w : RawWindow) : Bool :=
  4095 < w.dst.x || 4095 < w.dst.y || w.dst.w == 0 || 2048 < w.dst.w || w.dst.h == 0 || 2048 < w.dst.h ||
    (w.isSurface &&
      (w.sw == 0 || 4096 < w.sw || w.sh == 0 || 4096 < w.sh || 4095 < w.sx || 4095 < w.sy ||
        (w.ring.isNone && (w.sw < w.sx + w.dst.w || w.sh < w.sy + w.dst.h)) ||
        2 ^ 32 ≤ w.base.toNat + (w.sh - 1) * w.pitch + w.sw * formatBytes w.format - 1))

/-- R43. -/
def RawWindow.ringBad (w : RawWindow) : Bool :=
  w.isSurface &&
    w.ring.any fun r =>
      r.w == 0 || r.h == 0 || w.sw < r.x + r.w || w.sh < r.y + r.h ||
        !(r.x ≤ w.sx && w.sx < r.x + r.w && r.y ≤ w.sy && w.sy < r.y + r.h)

/-- R44: a motion step outside −64 to +64. -/
def stepBad (n : Int) : Bool :=
  n < -64 || 64 < n

/-- R44. -/
def RawWindow.motionBad (w : RawWindow) : Bool :=
  w.isSurface && w.motion.any fun m => w.ring.isNone || stepBad m.stepX || stepBad m.stepY

/-- R35, step 3 after KIND_BAD: the first window check that a record fails. -/
def RawWindow.firstFailing (w : RawWindow) : Option Code :=
  if w.formatBad then some .formatBad
  else if w.fieldConflict then some .fieldConflict
  else if w.alignBad then some .alignBad
  else if w.geometryBad then some .geometryBad
  else if w.ringBad then some .ringBad
  else if w.motionBad then some .motionBad
  else none

/-! ### Table entries (R47) -/

/-- R47: the table entry of a SURFACE record: the view rectangle is the ring, or else the source rectangle. -/
def surfaceOf (w : RawWindow) (f : Format) : Surface :=
  { format := f, base := w.base, pitch := w.pitch, srcX := w.sx, srcY := w.sy, key := w.key, ring := w.ring,
    motion := w.motion, view := w.ring.getD { x := w.sx, y := w.sy, w := w.dst.w, h := w.dst.h } }

/-- R47: the table entry of a record that has passed its checks. -/
def windowOf (w : RawWindow) : Window :=
  { ratio := w.ratio, dst := w.dst,
    content :=
      match Format.ofByte w.format with
      | some f => .surface (surfaceOf w f)
      | none => .fill w.colour }

/-! ### The record walk (R38) and step 3 of R35 -/

/-- A failed check: its code and the window index reported. -/
abbrev CheckFailure := Code × Option Nat

/-- R38, R39: the walk of `n` records from body offset `o`, the first of them window `i`: the entries and the offset at
which the walk ends, or the first failure. -/
def walkRecords (body : List Byte) : Nat → Nat → Nat → Except CheckFailure (List Window × Nat)
  | 0, _, o => .ok ([], o)
  | n + 1, i, o =>
    if body.length < o + 4 then .error (.lengthBad, none)
    else if (u8 body o).toNat ≠ 1 ∧ (u8 body o).toNat ≠ 2 then .error (.kindBad, some i)
    else if body.length < o + recordLength body o then .error (.lengthBad, none)
    else
      match (parseRecord body o).firstFailing with
      | some code => .error (code, some i)
      | none =>
        match walkRecords body n (i + 1) (o + recordLength body o) with
        | .error e => .error e
        | .ok (ws, stop) => .ok (windowOf (parseRecord body o) :: ws, stop)

/-! ### Line depth and line budget (R45, R46) -/

/-- The unclipped rows of a window include line `y`. -/
def coversLine (y : Nat) (w : Window) : Bool :=
  w.dst.y ≤ y && y < w.dst.y + w.dst.h

/-- R45: how many windows cover line `y`. -/
def depthAt (ws : List Window) (y : Nat) : Nat :=
  (ws.filter (coversLine y)).length

/-- R46: what a window adds to the budget of a line it covers. -/
def budgetOf (w : Window) : Nat :=
  match w.content with
  | .fill _ => 0
  | .surface _ => w.dst.w

/-- R46: the sum of the widths of the SURFACE windows that cover line `y`. -/
def budgetAt (ws : List Window) (y : Nat) : Nat :=
  ((ws.filter (coversLine y)).map budgetOf).sum

/-- R45: some line is covered by more than 8 windows. The count rises only at the first row of a window, so the first
rows are the lines examined ("the result is the same as examining every line one by one"). -/
def depthExceeded (ws : List Window) : Bool :=
  ws.any fun w => 8 < depthAt ws w.dst.y

/-- R46: the widths on some line sum to more than 4096; the lines examined are those of R45. -/
def budgetExceeded (ws : List Window) : Bool :=
  ws.any fun w => 4096 < budgetAt ws w.dst.y

/-! ### The six steps (R35) -/

/-- What a scene that passes every check is staged with (R16, R28). -/
structure SceneImage where
  minFrames : Nat
  bg : Rgb
  windows : List Window
  deriving DecidableEq, Repr

/-- R35: the ordered checks of a body image against the descriptor that names it. -/
def checkScene (d : Descriptor) (body : List Byte) : Except CheckFailure SceneImage :=
  if checkValue d.seq d.bodyLen body ≠ d.check then .error (.checkMismatch, none)
  else if 16 < (u8 body 0).toNat then .error (.countBad, none)
  else
    match walkRecords body (u8 body 0).toNat 0 8 with
    | .error e => .error e
    | .ok (ws, stop) =>
      if stop ≠ body.length then .error (.lengthBad, none)
      else if depthExceeded ws then .error (.depthExceeded, none)
      else if budgetExceeded ws then .error (.budgetExceeded, none)
      else .ok { minFrames := max 1 (u8 body 1).toNat, bg := colourAt body 4, windows := ws }

/-- R48: the in-view entries of one table. -/
def viewEntries (ws : List Window) : List ViewEntry :=
  ws.filterMap fun w =>
    match w.content with
    | .fill _ => none
    | .surface sf => some { base := sf.base, pitch := sf.pitch, rect := sf.view }

end Sys2Proof.Machine
end

