-- ==== Sys2Proof/Machine/SceneLoader.lean ====
section
/-! DEFINITION. The scene loader (chapter 1): the load, rejection, staging, take-over and entry to OFF, and the commands
DESCRIPTOR_READ_RESPONSE, BODY_BURST_RESPONSE, SCENE_CHECKS_COMPLETE and SLOT_WRITE_RESPONSE. -/

namespace Sys2Proof.Machine

/-! ### Slot words and reports (R1, R184) -/

/-- R1, R183, R184: the write of a slot's first word; `state` is its state byte. -/
def slotWordBurst (s : State) (slot : Slot) (state : Byte) (code : Code) (seq : Word) (asks : Bool) : Burst :=
  burstAt (.slotWrite slot seq asks) (controlAddr (0x20 + 32 * slot.val) s) 4 [state, code.toByte, 0, 0]

/-- A REJECTED write, which raises SCENE_REJECTED when it is issued (R1, log entry 28). -/
def writeRejected (slot : Slot) (code : Code) (seq : Word) (s : State) : State :=
  raise .sceneRejected (issueLoader [slotWordBurst s slot 4 code seq false] s)

/-- A fault report of the scene loader. -/
def reportScene (code : Code) (slot : Option Slot) (window : Option Nat) (seq addr : Word) : State → State :=
  report { source := .scene, code := code, slot := slot, window := window, seq := seq, addr := addr }

/-- The end of a load: IDLE, no candidate, no skip set, and the body image discarded (R15, R26, R47). -/
def endLoad : State → State :=
  State.modLoader fun l =>
    { l with phase := .idle, candidate := none, skip := [], image := [], bodyLeft := 0, descLeft := 0,
             descs := Vector.replicate 4 none }

/-! ### Beginning a load (R8) -/

/-- R8: the conditions under which a latch point begins a load. -/
def loadAllowed (s : State) : Bool :=
  s.scan.output == .running && s.loader.staged.isNone && s.loader.phase == .idle &&
    (s.loader.shownSlot.isNone || s.loader.shownMin ≤ s.loader.framesShown) &&
    (!s.fault.latch || s.regs.runMode == .continue)

/-- The four slots in ascending index. -/
def allSlots : List Slot :=
  [0, 1, 2, 3]

/-- R8, R3: the slots whose descriptors a load reads: every slot except the shown one. That the reads are requested in
ascending slot index is the model's choice (log entry 30). -/
def slotsToRead (s : State) : List Slot :=
  allSlots.filter fun n => s.loader.shownSlot != some n

/-- R183: the read of a slot's descriptor, one burst of 20 bytes. -/
def descriptorBurst (s : State) (n : Slot) : Burst :=
  burstAt (.descriptor n) (controlAddr (0x20 + 32 * n.val) s) 20 []

/-- R8: a load begins: phase DESCRIPTORS, and the reads of the descriptors requested. -/
def beginLoad (s : State) : State :=
  if loadAllowed s then
    issueLoader ((slotsToRead s).map (descriptorBurst s))
      (s.modLoader fun l =>
        { l with phase := .descriptors, candidate := none, skip := [], image := [], bodyLeft := 0,
                 descs := Vector.replicate 4 none, descLeft := (slotsToRead s).length })
  else s

/-! ### Choosing the candidate (R2, R4, R10 to R12) -/

/-- R184: the fields of a descriptor from its 20 bytes. -/
def parseDescriptor (l : List Byte) : Descriptor :=
  { state := u8 l 0, seq := u32 l 4, bodyAddr := u32 l 8, bodyLen := u32 l 12, check := u32 l 16 }

/-- R2: the offered slots of the load, in ascending index, with their descriptors. -/
def offers (l : Loader) : List (Slot × Descriptor) :=
  allSlots.filterMap fun n =>
    match l.descs[n.val] with
    | some d => if d.state = 1 then some (n, d) else none
    | none => none

/-- R4, R10: the result an offer is marked with as the descriptor phase ends, or none. -/
def offerMark (l : Loader) (d : Descriptor) : Option Code :=
  if d.seq = 0 then some .sequenceBad
  else if l.hasShown && !newer d.seq l.shownSeq then some .stale
  else none

/-- The offers left unmarked by R10. -/
def unmarked (l : Loader) : List (Slot × Descriptor) :=
  (offers l).filter fun p => (offerMark l p.2).isNone

/-- R11: the candidate among offers taken in ascending index: a later one replaces the best only when it is newer. -/
def bestOffer : List (Slot × Descriptor) → Option (Slot × Descriptor)
  | [] => none
  | p :: rest => some (rest.foldl (fun best q => if newer q.2.seq best.2.seq then q else best) p)

/-- R12: the skip set of a candidate: every other unmarked offer that is not newer. -/
def skipSet (l : Loader) (c : Slot × Descriptor) : List Slot :=
  ((unmarked l).filter fun p => p.1 != c.1 && !newer p.2.seq c.2.seq).map Prod.fst

/-- R10: one offer marked REJECTED when it is illegal or stale. -/
def markOffer (l : Loader) (s : State) (p : Slot × Descriptor) : State :=
  match offerMark l p.2 with
  | some code => writeRejected p.1 code p.2.seq s
  | none => s

/-- R15: the load fails: the REJECTED write, the report, and the end of the load. -/
def rejectLoad (slot : Slot) (d : Descriptor) (code : Code) (window : Option Nat) (addr : Word) (s : State) : State :=
  endLoad (reportScene code (some slot) window d.seq addr (writeRejected slot code d.seq s))

/-- R13: the check of a candidate's body length and body address before any body read. -/
def bodyRefused (d : Descriptor) : Option Code :=
  if d.bodyLen.toNat < 8 || 1024 < d.bodyLen.toNat || d.bodyLen.toNat % 4 != 0 then some .lengthBad
  else if d.bodyAddr.toNat % 8 != 0 then some .alignBad
  else none

/-- R14: phase BODY: the reads of the body, in ascending address order. -/
def beginBody (slot : Slot) (d : Descriptor) (skip : List Slot) (s : State) : State :=
  let bs := runBursts .body d.bodyAddr.toNat d.bodyLen.toNat []
  issueLoader bs
    (s.modLoader fun l =>
      { l with phase := .body, candidate := some slot, skip := skip,
               image := List.replicate d.bodyLen.toNat 0, bodyLeft := bs.length })

/-- R10 to R13: the end of the descriptor phase, every descriptor read having answered OK. -/
def chooseCandidate (s : State) : State :=
  let s' := (offers s.loader).foldl (markOffer s.loader) s
  match bestOffer (unmarked s.loader) with
  | none => endLoad s'
  | some c =>
    match bodyRefused c.2 with
    | some code => rejectLoad c.1 c.2 code none c.2.bodyAddr s'
    | none => beginBody c.1 c.2 (skipSet s.loader c) s'

/-- Whether a burst is a descriptor read. -/
def BurstKind.isDescriptor (k : BurstKind) : Bool :=
  match k with
  | .descriptor _ => true
  | _ => false

/-- Whether a burst is a body read. -/
def BurstKind.isBody (k : BurstKind) : Bool :=
  match k with
  | .body _ => true
  | _ => false

/-- The reads `k` of a load that a bus error ends (R9, R14): those not yet presented are not requested, the data of
those presented or granted is discarded (log entry 12). -/
def stopReads (k : BurstKind → Bool) : State → State :=
  State.modPort fun p =>
    Port.dropReads k
      { p with
        loader :=
          match p.loader with
          | [] => []
          | b :: rest => (if k b.kind then b.drop else b) :: rest.filter fun c => !k c.kind }

/-- R8, R9, R10: the answer to a descriptor read. -/
def answerDescriptor (b : Burst) (a : Answer) (s : State) : State :=
  match b.kind with
  | .descriptor n =>
    match a with
    | none => endLoad (reportScene .busFault none none 0 b.addr (stopReads BurstKind.isDescriptor s))
    | some data =>
      let s' :=
        s.modLoader fun l =>
          { l with descs := l.descs.set n.val (some (parseDescriptor data)), descLeft := l.descLeft - 1 }
      if s'.loader.descLeft = 0 then chooseCandidate s' else s'
  | _ => s

/-- DESCRIPTOR_READ_RESPONSE. -/
def execDescriptorReadResponse (tag : Nat) (r : Response) (s : State) : Host.Outcome State Fault Refusal :=
  live (respond BurstKind.isDescriptor tag r answerDescriptor) s

/-! ### The body (R14) -/

/-- The candidate slot of the load with its descriptor. -/
def candidateOf (l : Loader) : Option (Slot × Descriptor) :=
  match l.candidate with
  | none => none
  | some n => (l.descs[n.val]).map fun d => (n, d)

/-- R14: the answer to a body burst. -/
def answerBody (b : Burst) (a : Answer) (s : State) : State :=
  match b.kind with
  | .body off =>
    match a with
    | some data =>
      s.modLoader fun l =>
        { l with image := putBytes l.image off data, bodyLeft := l.bodyLeft - 1,
                 phase := if l.bodyLeft - 1 = 0 then .checking else l.phase }
    | none =>
      match candidateOf s.loader with
      | none => s
      | some c => rejectLoad c.1 c.2 .busFault none b.addr (stopReads BurstKind.isBody s)
  | _ => s

/-- BODY_BURST_RESPONSE. -/
def execBodyBurstResponse (tag : Nat) (r : Response) (s : State) : Host.Outcome State Fault Refusal :=
  live (respond BurstKind.isBody tag r answerBody) s

/-! ### Staging (R15, R16, R48) -/

/-- R48: the in-view table recomputed from the shown and the staged table. -/
def recomputeView : State → State :=
  State.modLoader fun l => { l with inView := viewEntries l.shownTable ++ viewEntries l.stagedTable }

/-- R16: a scene that has passed every check is staged, and a held order is tested again. -/
def stage (slot : Slot) (d : Descriptor) (im : SceneImage) (s : State) : State :=
  retestHold
    (recomputeView
      (endLoad
        (s.modLoader fun l =>
          { l with stagedTable := im.windows,
                   staged := some { slot := slot, seq := d.seq, minFrames := im.minFrames, bg := im.bg, skip := l.skip } })))

/-- R68: with one blank line, the latch point of a line start has been taken and the frame open of the same line start
has still to follow it. No time passes between the two. -/
def betweenPhases (s : State) : Bool :=
  match s.scan.timing, s.scan.line with
  | some t, some lp => lp.line == t.h && lp.openDue && !lp.latchDue
  | _, _ => false

/-- R35: the checks of phase CHECKING end in a rejection or in staging. They do not end between the two phases of one
line start, so that a load begun at a latch point has not staged its scene at the frame open of the same line (R68,
log entry 29). -/
def completeChecks (s : State) : State :=
  if s.loader.phase = .checking ∧ betweenPhases s = false then
    match candidateOf s.loader with
    | none => s
    | some c =>
      match checkScene c.2 s.loader.image with
      | .error e => rejectLoad c.1 c.2 e.1 e.2 c.2.bodyAddr s
      | .ok im => stage c.1 c.2 im s
  else s

/-- SCENE_CHECKS_COMPLETE. -/
def execSceneChecksComplete (s : State) : Host.Outcome State Fault Refusal :=
  live completeChecks s

/-! ### Take-over and run-on (R18 to R20) -/

/-- R18: the writes of a take-over: SKIPPED to the skip set, RETIRED to the shown slot, SHOWN to the staged slot, at
whose issue the status block is asked for. -/
def takeOverWrites (st : Staged) (s : State) : List Burst :=
  (st.skip.map fun n => slotWordBurst s n 5 .none st.seq false) ++
    (s.loader.shownSlot.toList.map fun n => slotWordBurst s n 3 .none st.seq false) ++
    [slotWordBurst s st.slot 2 .none st.seq true]

/-- R19: the staged scene becomes the shown scene. -/
def showStaged (st : Staged) : State → State :=
  State.modLoader fun l =>
    { l with shownTable := l.stagedTable, stagedTable := [], shownSlot := some st.slot, shownSeq := st.seq,
             shownMin := st.minFrames, shownBg := st.bg, hasShown := true, framesShown := 1, staged := none }

/-- R18, R19: the take-over, in the scene loader and the compositor's offsets. -/
def takeOver (st : Staged) (s : State) : State :=
  resetOffsets
    (raise .sceneTaken
      (recomputeView (showStaged st (settleLoader (issueLoader (takeOverWrites st s) s)))))

/-- R20: the shown scene runs on: frames-shown counts, saturating at 255, and motion advances. -/
def runOn (s : State) : State :=
  if s.loader.shownSlot.isSome then
    advanceOffsets (s.modLoader fun l => { l with framesShown := min 255 (l.framesShown + 1) })
  else s

/-! ### Entry to OFF (R26) -/

/-- The reads of the scene loader's place, the timing read among them. -/
def BurstKind.isLoaderRead (k : BurstKind) : Bool :=
  k.requester == .loader && !k.isWrite

/-- R26, R63: the loader's reads and the timing read are withdrawn when not yet granted, and discarded otherwise. That
the timing read of an entry which a PARK request had abandoned is withdrawn as well, and a read of a load that a bus
error had already ended, is the model's choice (log entries 32 and 35). -/
def withdrawLoader : State → State :=
  State.modPort fun p =>
    Port.dropReads BurstKind.isLoaderRead { p with loader := p.loader.filter fun b => !b.kind.isLoaderRead }

/-- R26: entry to OFF in the scene loader. The shown sequence and has-shown are kept. The status block of R63 is asked
for when the RETIRED write is presented (R166, log entry 25). -/
def loaderOff (s : State) : State :=
  let s' := withdrawLoader (endLoad s)
  let retired := s.loader.shownSlot.toList.map fun n => slotWordBurst s n 3 .none s.loader.shownSeq true
  (settleLoader (issueLoader retired s')).modLoader fun l =>
    { l with staged := none, stagedTable := [], shownTable := [], shownSlot := none, framesShown := 0, inView := [] }

/-! ### Slot writes answered (R10, R15, R18, R26) -/

/-- The answer to a slot write: an ERROR is reported, with the sequence the write was made for. R15 names no slot, window
index or sequence for the second report of a rejection: slot, 0xFF and the candidate's sequence are the model's choice
(log entry 31). -/
def answerSlotWrite (b : Burst) (a : Answer) (s : State) : State :=
  match b.kind with
  | .slotWrite n seq _ =>
    match a with
    | some _ => s
    | none => reportScene .busFault (some n) none seq b.addr s
  | _ => s

/-- Whether a burst is a slot write. -/
def BurstKind.isSlotWrite (k : BurstKind) : Bool :=
  match k with
  | .slotWrite _ _ _ => true
  | _ => false

/-- SLOT_WRITE_RESPONSE. -/
def execSlotWriteResponse (tag : Nat) (r : Response) (s : State) : Host.Outcome State Fault Refusal :=
  live (respond BurstKind.isSlotWrite tag r answerSlotWrite) s

end Sys2Proof.Machine
end

