-- ==== Sys2Proof/Machine/ScanTiming.lean ====
section
/-! DEFINITION. The scan timing unit (chapter 3): the timing record, the output requests, entry to OFF, the lock, the
lines of a frame, the latch point, the frame open and the frame mark. -/

namespace Sys2Proof.Machine

/-! ### The timing record (R51, section 11.2.1) -/

/-- The fields of a timing record from its 24 bytes. -/
def parseTiming (l : List Byte) : Timing :=
  { w := u16 l 0, h := u16 l 2, b := u16 l 4, v := (u8 l 6).toNat, div := (u8 l 7).toNat, outWidth := (u8 l 8).toNat,
    hsyncHigh := flagAt l 9 0, vsyncHigh := flagAt l 9 1, markDiv := (u8 l 10).toNat, markDelay := u16 l 12,
    idle := colourAt l 16, tag := u32 l 20 }

/-- R51: every field of the record is legal. -/
def Timing.legal (t : Timing) : Bool :=
  (16 ≤ t.w && t.w ≤ 2048) && (16 ≤ t.h && t.h ≤ 2048) && (8 ≤ t.b && t.b ≤ 1024) && (1 ≤ t.v && t.v ≤ 255) &&
    (2 ≤ t.div && t.div ≤ 64) && (t.outWidth == 16 || t.outWidth == 18 || t.outWidth == 24) && t.markDiv ≤ 16 &&
    t.markDelay ≤ 1023 && t.markDelay < t.h + t.v

/-! ### Changes of the output state (R54) -/

/-- R54, R64: a status block is asked for at a change of output state. -/
def setOutput (o : OutputState) (s : State) : State :=
  askBlock (s.modScan fun c => { c with output := o })

/-- An entry to LOCKING is over: no origin, no lock phase, the lock timer stopped. -/
def endLocking : State → State :=
  State.modScan fun c => { c with origin := none, lockPhase := none, timerOn := false }

/-- R50, R183: the read of the timing record, one burst of 24 bytes. -/
def timingBurst (s : State) : Burst :=
  burstAt .timing (controlAddr 0 s) 24 []

/-- R55: an entry to LOCKING from `origin`. -/
def enterLocking (origin : Origin) (s : State) : State :=
  issueTiming (timingBurst s)
    (setOutput .locking (s.modScan fun c => { c with origin := some origin, lockPhase := some .reading, timerOn := false }))

/-- Whether a burst is the timing read. -/
def BurstKind.isTiming (k : BurstKind) : Bool :=
  k == .timing

/-- R50, R58: the timing read of an entry that a PARK request abandons is discarded when it answers (log entry 13). -/
def discardTiming : State → State :=
  State.modPort fun p =>
    Port.dropReads BurstKind.isTiming
      { p with loader := p.loader.map fun b => if b.kind.isTiming then b.drop else b }

/-- The output arrives in PARKED by a request, and PARKED is raised (R54, R58). -/
def enterParked (s : State) : State :=
  raise .parked (setOutput .parked s)

/-- R91: entry to OFF in the compositor. -/
def compOff : State → State :=
  State.modComp fun _ => { current := [], coming := [], offsets := [], flags := Vector.replicate 16 false }

/-- R63: entry to OFF in the scan timing unit. The frame counter and the timing in effect are kept. -/
def scanOff : State → State :=
  State.modScan fun c =>
    { c with output := .off, origin := none, lockPhase := none, line := none, mark := none, fmk := false, timerOn := false }

/-- R63: the status block of an entry to OFF with no slot shown. With one shown, the RETIRED write asks for the block
when it is presented, so that the block follows it (R26, R166, log entry 25). -/
def askOffBlock (shown : Option Slot) (s : State) : State :=
  if shown.isNone then askBlock s else s

/-- R63, R64: the entry to OFF. A held order is tested again against the empty in-view table (R140), and a waiting fence
ends (R143). -/
def enterOff (s : State) : State :=
  retestHold (endFenceAtOff (askOffBlock s.loader.shownSlot (scanOff (fetchOff (compOff (loaderOff s))))))

/-- R54: an OFF request. -/
def requestOff (s : State) : State :=
  match s.scan.output with
  | .off => s
  | .locking => enterOff s
  | .parked => enterOff s
  | .running => enterOff s
  | .parking => enterOff s

/-- R54, R58, R59: a PARK request. -/
def requestPark (s : State) : State :=
  match s.scan.output with
  | .off => enterParked s
  | .locking => enterParked (discardTiming (endLocking s))
  | .parked => s
  | .running => setOutput .parking s
  | .parking => s

/-- R54, R55, R61: a RUN request. -/
def requestRun (s : State) : State :=
  match s.scan.output with
  | .off => enterLocking .off s
  | .locking => s
  | .parked => enterLocking .parked s
  | .running => s
  | .parking => setOutput .running s

/-- R54: an output request, taken in the output state it finds. -/
def requestOutput (t : OutputTarget) (s : State) : State :=
  match t with
  | .off => requestOff s
  | .park => requestPark s
  | .run => requestRun s

/-! ### The lock (R51, R52, R55 to R57) -/

/-- The output state an origin names. -/
def Origin.output : Origin → OutputState
  | .off => .off
  | .parked => .parked

/-- The value of RUN OUTPUT an origin names (R57). -/
def Origin.target : Origin → OutputTarget
  | .off => .off
  | .parked => .park

/-- A fault report of the scan timing unit. -/
def reportTiming (code : Code) (addr : Word) : State → State :=
  report { source := .timing, code := code, slot := none, window := none, seq := 0, addr := addr }

/-- R57: a failed entry to LOCKING returns to its origin: RUN OUTPUT names it, the fault is reported, and OUTPUT_STOPPED
is raised. -/
def failEntry (code : Code) (addr : Word) (s : State) : State :=
  match s.scan.origin with
  | none => s
  | some o =>
    raise .outputStopped
      (reportTiming code addr
        (endLocking ((setOutput o.output s).modRegs fun r => { r with runOutput := o.target })))

/-- R53, R55: a record that has passed every check takes effect, and the clock is locked. -/
def acceptTiming (t : Timing) : State → State :=
  State.modScan fun c => { c with timing := some t, lockPhase := some .clock, timerOn := true }

/-- R51, R52: the answer to the timing read. -/
def answerTiming (b : Burst) (a : Answer) (s : State) : State :=
  if s.scan.output = .locking ∧ s.scan.lockPhase = some .reading then
    match a with
    | none => failEntry .busFault b.addr s
    | some data =>
      if (parseTiming data).legal then acceptTiming (parseTiming data) s else failEntry .timingBad s.regs.dirBase s
  else s

/-- TIMING_READ_RESPONSE. -/
def execTimingReadResponse (tag : Nat) (r : Response) (s : State) : Host.Outcome State Fault Refusal :=
  live (respond BurstKind.isTiming tag r answerTiming) s

/-- R57: the lock timer expires. -/
def lockExpires (s : State) : State :=
  if s.scan.output = .locking ∧ s.scan.lockPhase = some .clock then failEntry .lockTimeout s.regs.dirBase s else s

/-- LOCK_TIMEOUT. -/
def execLockTimeout (s : State) : Host.Outcome State Fault Refusal :=
  live lockExpires s

/-- R56, R67: the entry to RUNNING, at the start of line H: a latch point at which the frame counter does not advance
and no frame mark is decided. With one blank line the frame open of the same line follows (R68). -/
def enterRunning (t : Timing) (s : State) : State :=
  latchPaint false
    (beginLoad
      (raise .locked
        (setOutput .running
          ((endLocking s).modScan fun c =>
            { c with line := some { line := t.h, period := 0, latchDue := false, openDue := t.v == 1 } }))))

/-- R56: the lock event. It is discarded unless it is taken in lock phase LOCKING THE CLOCK and belongs to the
derivation started at this entry. -/
def lockTaken (current : Bool) (s : State) : State :=
  if current = true ∧ s.scan.output = .locking ∧ s.scan.lockPhase = some .clock then
    match s.scan.timing with
    | none => s
    | some t => enterRunning t s
  else s

/-- LOCK_EVENT. -/
def execLockEvent (current : Bool) (s : State) : Host.Outcome State Fault Refusal :=
  live (lockTaken current) s

/-! ### Lines (R65, R70, R73, R76, R100) -/

/-- Whether a frame is being sent (R65). -/
def scanning (s : State) : Bool :=
  s.scan.output == .running || s.scan.output == .parking

/-- R65: the line that follows a line of a frame. -/
def nextLine (t : Timing) (n : Nat) : Nat :=
  if n + 1 < t.h + t.v then n + 1 else 0

/-- R65, R70: the scan at the start of line `n`: the line position, the end of an FMK pulse, and one line less to go for
a pending frame mark. -/
def scanLine (t : Timing) (n : Nat) : State → State :=
  State.modScan fun c =>
    { c with
      line := some { line := n, period := 0, latchDue := n == t.h, openDue := n + 1 == t.h + t.v },
      fmk := false, mark := c.mark.map (· - 1) }

/-- The start of line `n` in the compositor and the line fetch unit: an active line ends its fetch, takes its list and
forms the list of the line after it (R73, R76, R100); on a blank line no list is current. -/
def composeLine (t : Timing) (n : Nat) (s : State) : State :=
  if n < t.h then
    let s' := takeList (endFetch s)
    if n + 1 < t.h then formLine t.w (n + 1) s' else s'
  else s.modComp fun c => { c with current := [] }

/-- Whether the events of the present line start have all been taken, so that the next line may start (log entry 4). -/
def lineDone (lp : LinePos) (s : State) : Bool :=
  !lp.latchDue && !lp.openDue && s.scan.mark != some 0

/-- R65: the start of the next line. -/
def lineStart (s : State) : State :=
  match s.scan.timing, s.scan.line with
  | some t, some lp =>
    if scanning s && lineDone lp s then composeLine t (nextLine t lp.line) (scanLine t (nextLine t lp.line) s) else s
  | _, _ => s

/-- START_OF_LINE. -/
def execStartOfLine (s : State) : Host.Outcome State Fault Refusal :=
  live lineStart s

/-- One pixel period of the line being sent passes (R65); the last one of a line lasts until the next line starts (log
entry 5). -/
def pixelPeriod (s : State) : State :=
  match s.scan.timing, s.scan.line with
  | some t, some lp =>
    if scanning s && lp.period + 1 < t.b + t.w && !s.resetHeld then
      s.modScan fun c => { c with line := some { lp with period := lp.period + 1 } }
    else s
  | _, _ => s

/-! ### The latch point (R60, R66, R69, R70) -/

/-- R70: the frame-mark decision, with the frame counter as advanced. -/
def decideMark (t : Timing) : State → State :=
  State.modScan fun c =>
    if t.markDiv ≠ 0 ∧ c.frameCounter.toNat % t.markDiv = 0 then { c with mark := some t.markDelay } else c

/-- R69: the frame counter advances by one, and the latch point of this line start is taken. -/
def advanceFrame (lp : LinePos) : State → State :=
  State.modScan fun c => { c with frameCounter := c.frameCounter + 1, line := some { lp with latchDue := false } }

/-- R66: a latch point in RUNNING. -/
def latchRunning (t : Timing) (lp : LinePos) (s : State) : State :=
  askBlock (latchPaint true (beginLoad (decideMark t (advanceFrame lp s))))

/-- R60: the output is PARKED: the frame mark is dropped, FMK is low and the line position is no longer kept. -/
def scanParked : State → State :=
  State.modScan fun c => { c with line := none, mark := none, fmk := false }

/-- R60: the latch point in PARKING, which completes the park. One status block is asked for. -/
def latchParking (lp : LinePos) (s : State) : State :=
  enterParked (scanParked (latchPaint true (advanceFrame lp s)))

/-- R66: the latch point of the present line start. -/
def latch (s : State) : State :=
  match s.scan.timing, s.scan.line with
  | some t, some lp =>
    if lp.latchDue then
      match s.scan.output with
      | .running => latchRunning t lp s
      | .parking => latchParking lp s
      | .off => s
      | .locking => s
      | .parked => s
    else s
  | _, _ => s

/-- LATCH_POINT. -/
def execLatchPoint (s : State) : Host.Outcome State Fault Refusal :=
  live latch s

/-! ### The frame open (R18 to R20, R68, R86) -/

/-- R68: the frame open of this line start is taken. -/
def openTaken (lp : LinePos) : State → State :=
  State.modScan fun c => { c with line := some { lp with openDue := false } }

/-- R68, R86: take-over or run-on, the motion offsets, the fault flags, the list and the fetch of line 0; then the tests
of a waiting fence and of a held order that a take-over brings (R127). -/
def openFrame (t : Timing) (lp : LinePos) (s : State) : State :=
  match s.loader.staged with
  | some st => retestHold (testFence (formLine t.w 0 (clearFlags (takeOver st (openTaken lp s)))))
  | none => formLine t.w 0 (clearFlags (runOn (openTaken lp s)))

/-- R68: the frame open of the present line start, after the latch point of the same line. -/
def frameOpens (s : State) : State :=
  match s.scan.timing, s.scan.line with
  | some t, some lp => if scanning s && lp.openDue && !lp.latchDue then openFrame t lp s else s
  | _, _ => s

/-- FRAME_OPEN. -/
def execFrameOpen (s : State) : Host.Outcome State Fault Refusal :=
  live frameOpens s

/-! ### The frame mark (R70) -/

/-- R70: the pending mark whose lines have run out is pulsed: FMK goes high until the next line starts, and FRAME_MARK is
raised. -/
def pulseMark (s : State) : State :=
  if scanning s && s.scan.mark == some 0 then
    raise .frameMark (s.modScan fun c => { c with mark := none, fmk := true })
  else s

/-- FRAME_MARK. -/
def execFrameMark (s : State) : Host.Outcome State Fault Refusal :=
  live pulseMark s

end Sys2Proof.Machine
end

