-- ==== Sys2Proof/Machine/Registers.lean ====
section
/-! DEFINITION. The register window (chapter 10): the host's writes, the actions, the refusals and the two resets. -/

namespace Sys2Proof.Machine

/-! ### Refusals (R176) -/

/-- R176: a refused access leaves every register unchanged, presents nothing to any block, and raises CONFIG_REFUSED. -/
def refuse : State → State :=
  raise .configRefused

/-! ### DIR_BASE (R174) -/

/-- R174: the conditions under which a write to DIR_BASE is accepted. -/
def dirBaseAccepted (v : Word) (s : State) : Bool :=
  s.scan.output == .off && s.paint.engine == .stopped && v.toNat % 64 == 0

/-- R174: a host write to DIR_BASE. -/
def writeDirBase (v : Word) (s : State) : State :=
  if dirBaseAccepted v s then s.modRegs fun r => { r with dirBase := v } else refuse s

/-! ### RUN (R175, R176) -/

/-- R176: a RUN write that asks for work is refused while DIR_BASE is 0. -/
def runNeedsBase (t : OutputTarget) (paint : Bool) (s : State) : Bool :=
  s.regs.dirBase == 0 && (t != .off || paint)

/-- R175: PAINT presented to the paint engine. -/
def requestPaint (paint : Bool) (s : State) : State :=
  if paint then paintOn s else paintOff s

/-- R175: the fields of an accepted RUN write presented to their blocks; `outputFirst` is the order in which the scan
timing unit and the paint engine take theirs, which the rule leaves open. -/
def presentRun (outputFirst : Bool) (t : OutputTarget) (paint : Bool) (s : State) : State :=
  if outputFirst then requestPaint paint (requestOutput t s) else requestOutput t (requestPaint paint s)

/-- R175: an accepted RUN write replaces all three fields together. -/
def setRun (t : OutputTarget) (paint : Bool) (mode : FaultMode) : State → State :=
  State.modRegs fun r => { r with runOutput := t, runPaint := paint, runMode := mode }

/-- R175: an accepted RUN write. It uses up one free value (log entry 3). -/
def acceptRun (t : OutputTarget) (paint : Bool) (mode : FaultMode) (s : State) : State :=
  { presentRun (Config.runOutputFirst s.freeIdx) t paint (setRun t paint mode s) with freeIdx := s.freeIdx + 1 }

/-- R175, R176: a host write of `v` to RUN. -/
def writeRun (v : Word) (s : State) : State :=
  match runOutputField v with
  | none => refuse s
  | some t =>
    if runNeedsBase t (runPaintField v) s then refuse s else acceptRun t (runPaintField v) (runModeField v) s

/-! ### Resets (R179, R180, R169, R170) -/

/-- R169: the port at a soft reset: presented bursts withdrawn, outstanding places kept and abandoned. -/
def Port.softReset (p : Port) : Port :=
  { fetch := [], loader := [], status := [], paint := [],
    reads := p.reads.map fun pl => { pl with abandoned := true },
    write := p.write.map fun pl => { pl with abandoned := true },
    epoch := p.epoch }

/-- R170: the port at a power-on reset: cleared, and the tags of the bursts granted before it are used no more, so that
a response that arrives late matches no place. -/
def Port.hardReset (p : Port) : Port :=
  { Port.reset with epoch := p.epoch + 1 }

/-- R179: the soft reset of the whole part, which keeps DIR_BASE and EVENT_ENABLE. -/
def resetSoft (s : State) : State :=
  { State.reset with
    regs := { Regs.reset with dirBase := s.regs.dirBase, enable := s.regs.enable },
    port := s.port.softReset, freeIdx := s.freeIdx, pending := s.pending }

/-- R180: RESET_N asserted: every block in its power-on reset state, and held there. -/
def resetHard (s : State) : State :=
  { State.reset with port := s.port.hardReset, resetHeld := true, freeIdx := s.freeIdx, pending := s.pending }

/-! ### Actions (section 10.5) -/

/-- R177: NUDGE makes an engine that stands AT_TAIL re-read the tail. -/
def nudgeEngine (s : State) : State :=
  if s.paint.engine = .atTail then rereadTail s else s

/-- R126, R178: RESUME in HALTED clears the passed-over count and re-reads the tail; in any other state it is refused. -/
def resumeEngine (s : State) : State :=
  if s.paint.engine = .halted then rereadTail (s.modPaint fun p => { p with passedOver := 0 }) else refuse s

/-- Section 10.5: a host write to ACTION; the whole value is the code. -/
def writeAction (v : Word) (s : State) : State :=
  match v.toNat with
  | 1 => nudgeEngine s
  | 2 => clearLatch s
  | 3 => resumeEngine s
  | 4 => resetSoft s
  | _ => refuse s

/-! ### The window (R172) -/

/-- R172: a host write of `v` at `offset`. A write to IDENT, to STATE or from 0x1C upward is ignored. -/
def hostWrite (offset v : Word) (s : State) : State :=
  match offset.toNat with
  | 0x04 => writeDirBase v s
  | 0x08 => writeRun v s
  | 0x0C => writeAction v s
  | 0x10 => s.modRegs (Regs.clearEvents v)
  | 0x14 => s.modRegs (Regs.setEnable v)
  | _ => s

/-- DIR_BASE_WRITE. -/
def execDirBaseWrite (value : Word) (s : State) : Host.Outcome State Fault Refusal :=
  live (hostWrite 0x04 value) s

/-- OUTPUT_OFF. -/
def execOutputOff (rest : Word) (s : State) : Host.Outcome State Fault Refusal :=
  live (hostWrite 0x08 (withOutput rest .off)) s

/-- OUTPUT_PARK. -/
def execOutputPark (rest : Word) (s : State) : Host.Outcome State Fault Refusal :=
  live (hostWrite 0x08 (withOutput rest .park)) s

/-- OUTPUT_RUN. -/
def execOutputRun (rest : Word) (s : State) : Host.Outcome State Fault Refusal :=
  live (hostWrite 0x08 (withOutput rest .run)) s

/-- PAINT_SET. -/
def execPaintSet (rest : Word) (s : State) : Host.Outcome State Fault Refusal :=
  live (hostWrite 0x08 (withPaint rest true)) s

/-- PAINT_CLEAR. -/
def execPaintClear (rest : Word) (s : State) : Host.Outcome State Fault Refusal :=
  live (hostWrite 0x08 (withPaint rest false)) s

/-- FAULT_MODE_WRITE. -/
def execFaultModeWrite (value : Word) (s : State) : Host.Outcome State Fault Refusal :=
  live (hostWrite 0x08 value) s

/-- NUDGE. -/
def execNudge (s : State) : Host.Outcome State Fault Refusal :=
  live (hostWrite 0x0C 1) s

/-- CLEAR_FAULT. -/
def execClearFault (s : State) : Host.Outcome State Fault Refusal :=
  live (hostWrite 0x0C 2) s

/-- RESUME. -/
def execResume (s : State) : Host.Outcome State Fault Refusal :=
  live (hostWrite 0x0C 3) s

/-- SOFT_RESET. -/
def execSoftReset (s : State) : Host.Outcome State Fault Refusal :=
  live (hostWrite 0x0C 4) s

/-- EVENTS_WRITE. -/
def execEventsWrite (value : Word) (s : State) : Host.Outcome State Fault Refusal :=
  live (hostWrite 0x10 value) s

/-- EVENT_ENABLE_WRITE. -/
def execEventEnableWrite (value : Word) (s : State) : Host.Outcome State Fault Refusal :=
  live (hostWrite 0x14 value) s

/-- REGISTER_WRITE_OTHER. -/
def execRegisterWriteOther (offset value : Word) (s : State) : Host.Outcome State Fault Refusal :=
  live (hostWrite offset value) s

/-- POWER_ON_RESET. -/
def execPowerOnReset (s : State) : Host.Outcome State Fault Refusal :=
  .next (resetHard s)

/-- RESET_N_RELEASE: the hold ends, and no block acts (R180). -/
def execResetNRelease (s : State) : Host.Outcome State Fault Refusal :=
  .next { s with resetHeld := false }

end Sys2Proof.Machine
end

