-- ==== Sys2Proof/Machine/MemoryPort.lean ====
section
/-! DEFINITION. The arbiter of the memory port (chapter 9): BURST_GRANT and ABANDONED_RESPONSE. -/

namespace Sys2Proof.Machine

/-! ### Answers by kind of burst -/

/-- The answer to a burst handed to the block whose burst it was (R163). -/
def answerBurst (b : Burst) (a : Answer) (s : State) : State :=
  match b.kind with
  | .timing => answerTiming b a s
  | .descriptor _ => answerDescriptor b a s
  | .body _ => answerBody b a s
  | .slotWrite _ _ _ => answerSlotWrite b a s
  | .span _ _ _ => answerSpan b a s
  | .headPointer => answerHeadPointer b a s
  | .orderHead _ _ => answerOrderHead b a s
  | .remainder _ => answerRemainder b a s
  | .link => answerLink b a s
  | .tail => answerTail b a s
  | .active => answerActive b a s
  | .copySrc _ => answerCopyRead b a s
  | .pixel => answerPixel b a s
  | .stamp => answerStamp b a s
  | .final => answerFinal b a s
  | .status => answerStatus b a s

/-! ### Arbitration (R162) -/

/-- The burst a requester presents (R160). -/
def Port.presented (p : Port) : Requester → Option Burst
  | .fetch => p.fetch.head?
  | .loader => p.loader.head?
  | .status => p.status.head?
  | .paint => p.paint.head?

/-- R162: a read can be granted while fewer than eight reads are outstanding, a write while no write is. -/
def Port.grantable (p : Port) (b : Burst) : Bool :=
  if b.kind.isWrite then p.write.isNone else p.reads.length < 8

/-- R162: the requesters in the order of their priority. -/
def byPriority : List Requester :=
  [.fetch, .loader, .status, .paint]

/-- R162: the requester of highest priority whose presented burst can be granted, with that burst. -/
def Port.winner (p : Port) : Option (Requester × Burst) :=
  byPriority.findSome? fun q =>
    match p.presented q with
    | some b => if p.grantable b then some (q, b) else none
    | none => none

/-- The requester's presented burst taken from it; it presents its next (R160). -/
def Port.pop (q : Requester) (p : Port) : Port :=
  match q with
  | .fetch => { p with fetch := p.fetch.tail }
  | .loader => { p with loader := p.loader.tail }
  | .status => { p with status := p.status.tail }
  | .paint => { p with paint := p.paint.tail }

/-- The tag of a read granted now: the lowest one that no outstanding read has (log entry 8). -/
def Port.freshTag (p : Port) : Nat :=
  readTag p.epoch (((List.range 8).find? fun n => !p.reads.any fun pl => pl.tag == readTag p.epoch n).getD 0)

/-- R163: a granted burst takes an outstanding place. -/
def Port.occupy (b : Burst) (p : Port) : Port :=
  if b.kind.isWrite then { p with write := some { tag := writeTag p.epoch, burst := b, abandoned := false } }
  else { p with reads := p.reads ++ [{ tag := p.freshTag, burst := b, abandoned := false }] }

/-- R161, R162: a granted burst runs to its response; one past the top of the address space is not carried, and is
answered ERROR at once. -/
def runGranted (b : Burst) (s : State) : State :=
  if b.beyond then
    if b.dropped then s else answerBurst b none s
  else s.modPort (Port.occupy b)

/-- R162: one grant, when some presented burst can be granted. -/
def grant (s : State) : State :=
  match s.port.winner with
  | none => s
  | some (q, b) => runGranted b (settleLoader (s.modPort (Port.pop q)))

/-- BURST_GRANT. -/
def execBurstGrant (s : State) : Host.Outcome State Fault Refusal :=
  live grant s

/-! ### Responses after a soft reset (R169) -/

/-- R169: the response to an abandoned read, or to the write outstanding at a soft reset, frees its place and is
discarded, OK and ERROR alike. -/
def takeAbandoned (tag : Nat) (s : State) : State :=
  if s.port.places.any fun pl => pl.tag == tag && pl.abandoned then s.modPort (Port.free tag) else s

/-- ABANDONED_RESPONSE. -/
def execAbandonedResponse (tag : Nat) (_ : Response) (s : State) : Host.Outcome State Fault Refusal :=
  live (takeAbandoned tag) s

end Sys2Proof.Machine
end

