-- ==== Sys2Proof/Machine/Dispatch.lean ====
section
/-! DEFINITION. The meaning of every command, one arm per constructor. -/

namespace Sys2Proof.Machine

def exec (i : Instr) (s : State) : Host.Outcome State Fault Refusal :=
  match i with
  | .dirBaseWrite value => Sys2Proof.Machine.execDirBaseWrite value s
  | .outputOff rest => Sys2Proof.Machine.execOutputOff rest s
  | .outputPark rest => Sys2Proof.Machine.execOutputPark rest s
  | .outputRun rest => Sys2Proof.Machine.execOutputRun rest s
  | .paintSet rest => Sys2Proof.Machine.execPaintSet rest s
  | .paintClear rest => Sys2Proof.Machine.execPaintClear rest s
  | .faultModeWrite value => Sys2Proof.Machine.execFaultModeWrite value s
  | .nudge => Sys2Proof.Machine.execNudge s
  | .clearFault => Sys2Proof.Machine.execClearFault s
  | .resume => Sys2Proof.Machine.execResume s
  | .softReset => Sys2Proof.Machine.execSoftReset s
  | .eventsWrite value => Sys2Proof.Machine.execEventsWrite value s
  | .eventEnableWrite value => Sys2Proof.Machine.execEventEnableWrite value s
  | .registerWriteOther offset value => Sys2Proof.Machine.execRegisterWriteOther offset value s
  | .powerOnReset => Sys2Proof.Machine.execPowerOnReset s
  | .lockEvent current => Sys2Proof.Machine.execLockEvent current s
  | .lockTimeout => Sys2Proof.Machine.execLockTimeout s
  | .startOfLine => Sys2Proof.Machine.execStartOfLine s
  | .latchPoint => Sys2Proof.Machine.execLatchPoint s
  | .fenceTimedOut => Sys2Proof.Machine.execFenceTimedOut s
  | .frameOpen => Sys2Proof.Machine.execFrameOpen s
  | .frameMark => Sys2Proof.Machine.execFrameMark s
  | .timingReadResponse tag r => Sys2Proof.Machine.execTimingReadResponse tag r s
  | .descriptorReadResponse tag r => Sys2Proof.Machine.execDescriptorReadResponse tag r s
  | .bodyBurstResponse tag r => Sys2Proof.Machine.execBodyBurstResponse tag r s
  | .sceneChecksComplete => Sys2Proof.Machine.execSceneChecksComplete s
  | .slotWriteResponse tag r => Sys2Proof.Machine.execSlotWriteResponse tag r s
  | .spanBurstResponse tag r => Sys2Proof.Machine.execSpanBurstResponse tag r s
  | .headPointerReadResponse tag r => Sys2Proof.Machine.execHeadPointerReadResponse tag r s
  | .orderHeadReadResponse tag r => Sys2Proof.Machine.execOrderHeadReadResponse tag r s
  | .remainderReadResponse tag r => Sys2Proof.Machine.execRemainderReadResponse tag r s
  | .linkReadResponse tag r => Sys2Proof.Machine.execLinkReadResponse tag r s
  | .tailRereadResponse tag r => Sys2Proof.Machine.execTailRereadResponse tag r s
  | .chainLoop => Sys2Proof.Machine.execChainLoop s
  | .activeWriteResponse tag r => Sys2Proof.Machine.execActiveWriteResponse tag r s
  | .copyReadResponse tag r => Sys2Proof.Machine.execCopyReadResponse tag r s
  | .pixelWriteResponse tag r => Sys2Proof.Machine.execPixelWriteResponse tag r s
  | .stampWriteResponse tag r => Sys2Proof.Machine.execStampWriteResponse tag r s
  | .finalStatusWriteResponse tag r => Sys2Proof.Machine.execFinalStatusWriteResponse tag r s
  | .faultReport source => Sys2Proof.Machine.execFaultReport source s
  | .statusBlockWrite => Sys2Proof.Machine.execStatusBlockWrite s
  | .errorRecordWrite => Sys2Proof.Machine.execErrorRecordWrite s
  | .countWrite => Sys2Proof.Machine.execCountWrite s
  | .statusWriterResponse tag r => Sys2Proof.Machine.execStatusWriterResponse tag r s
  | .burstGrant => Sys2Proof.Machine.execBurstGrant s
  | .abandonedResponse tag r => Sys2Proof.Machine.execAbandonedResponse tag r s
  | .resetNRelease => Sys2Proof.Machine.execResetNRelease s

end Sys2Proof.Machine
end

