-- ==== Sys2Proof/Machine/Step.lean ====
section
/-! DEFINITION. One step of the part: the command at the front of the queue, or one pixel period when none waits. -/

namespace Sys2Proof.Machine

/-- The state with the front command taken from the queue. -/
def State.withQueue (q : List Instr) (s : State) : State :=
  { s with pending := q }

/-- One step: the front command is taken and executed on the state with the queue's rest. On an empty queue a pixel
period passes while a frame is sent, and otherwise the part idles (log entry 5). -/
def step (s : State) : Host.Outcome State Fault Refusal :=
  match s.pending with
  | [] => .next (pixelPeriod s)
  | c :: rest => exec c (s.withQueue rest)

/-- The state with the command that a word spells put at the front of the queue; no word spells one (the table gives no
row any bits). -/
def State.withFetchWord (s : State) (nbits w : Nat) : State :=
  match decodeTableWord nbits w with
  | none => s
  | some c => s.withQueue (c :: s.pending)

end Sys2Proof.Machine
end

