-- ==== Sys2Proof/Safety.lean ====
section
/-! DEFINITION. The predicates that statements about the part use: which commands reset it, what a well-formed state of
each block is, and the settings in which a response is handed to its requester. -/

namespace Sys2Proof

/-- SOFT_RESET and POWER_ON_RESET, the two resets (10, section 10.6). -/
def Instr.isReset (c : Instr) : Bool :=
  c == .softReset || c == .powerOnReset

end Sys2Proof

namespace Sys2Proof.Machine

/-- DIR_BASE names a 64-byte-aligned block (R174), and it is not 0 while the output is not OFF (R176). -/
def RegsWf (s : State) : Prop :=
  s.regs.dirBase.toNat % 64 = 0 ∧ (s.scan.output ≠ .off → s.regs.dirBase ≠ 0)

/-- A window table holds at most 16 entries (R7). -/
def TableFits (ws : List Window) : Prop :=
  ws.length ≤ 16 ∧ (∀ y, depthAt ws y ≤ 8) ∧ ∀ y, budgetAt ws y ≤ 4096

/-- A legal min-frames value (01, section 1.8). -/
def MinFramesOk (n : Nat) : Prop :=
  1 ≤ n ∧ n ≤ 255

/-- The scene loader's records: both tables obey R7, the in-view table is that of R48, a table is empty while its record
names no slot, frames-shown stays within 255 and is 0 while no slot is shown (R21), min-frames are 1 to 255, nothing is
shown before has-shown (R5), and an idle loader has no candidate. -/
structure LoaderWf (l : Loader) : Prop where
  shownFits : TableFits l.shownTable
  stagedFits : TableFits l.stagedTable
  view : l.inView = viewEntries l.shownTable ++ viewEntries l.stagedTable
  stagedNone : l.staged = none → l.stagedTable = []
  shownNone : l.shownSlot = none → l.shownTable = [] ∧ l.framesShown = 0
  frames : l.framesShown ≤ 255
  minShown : MinFramesOk l.shownMin
  minStaged : ∀ st, l.staged = some st → MinFramesOk st.minFrames
  notShown : l.hasShown = false → l.shownSlot = none ∧ l.shownSeq = 0
  idle : l.phase = .idle → l.candidate = none

/-- Section 1.2: sequence `a` is newer than sequence `b`. -/
abbrev NewerSeq (a b : Word) : Prop :=
  1 ≤ (a - b).toNat ∧ (a - b).toNat < 2 ^ 31

/-- The descriptor reads presented, waiting or outstanding whose answers the load in hand still takes. -/
def openDescriptors (p : Port) : List Burst :=
  (p.loader ++ (p.reads.filter fun pl => !pl.abandoned).map Place.burst).filter fun b =>
    b.kind.isDescriptor && !b.dropped

/-- The load in hand and the port: the loader counts the descriptor reads it has not had answered, and an idle one has
none; no descriptor of the shown slot is read (R3); the candidate and the staged scene are newer than the shown one, once
a scene has been shown (R4, R5); while a scene is staged no load is in hand; the shown and the staged record never
name the same slot (R6); and a descriptor read stands in the loader's place of the port or in a read's, nowhere else. -/
structure LoadWf (s : State) : Prop where
  asked : s.loader.descLeft = (openDescriptors s.port).length
  idle : s.loader.phase = .idle → s.loader.descLeft = 0
  reads : ∀ b ∈ openDescriptors s.port, ∀ n, b.kind = .descriptor n → s.loader.shownSlot ≠ some n
  read : ∀ n : Slot, s.loader.descs[n.val] ≠ none → s.loader.shownSlot ≠ some n
  chosen : ∀ n d, s.loader.candidate = some n → s.loader.descs[n.val] = some d →
    d.seq ≠ 0 ∧ (s.loader.hasShown = true → NewerSeq d.seq s.loader.shownSeq)
  choosing : s.loader.candidate ≠ none → s.loader.descLeft = 0
  alone : s.loader.staged ≠ none →
    s.loader.candidate = none ∧ s.loader.descLeft = 0 ∧ s.loader.descs = Vector.replicate 4 none
  newer : ∀ st, s.loader.staged = some st →
    st.seq ≠ 0 ∧ (s.loader.hasShown = true → NewerSeq st.seq s.loader.shownSeq)
  apart : ∀ st, s.loader.staged = some st → s.loader.shownSlot ≠ some st.slot
  elsewhere : ∀ b ∈ s.port.fetch ++ s.port.status ++ s.port.paint ++ s.port.write.toList.map Place.burst,
    b.kind.isDescriptor = false

/-- A frame is being sent in these output states (R65). -/
def OutputState.sends (o : OutputState) : Bool :=
  o == .running || o == .parking

/-- The scan timing unit's state: origin, lock phase and lock timer stand in LOCKING alone (R55); the line position,
a pending frame mark and FMK in RUNNING and PARKING alone (R65, R70); a frame and a running clock have a timing in
effect; the timing in effect is legal (R53) and the line position lies inside its frame. -/
structure ScanWf (c : Scan) : Prop where
  origin : c.origin.isSome = (c.output == .locking)
  lockPhase : c.lockPhase.isSome = (c.output == .locking)
  timer : c.timerOn = (c.lockPhase == some .clock)
  line : c.line.isSome = c.output.sends
  mark : c.output.sends = false → c.mark = none ∧ c.fmk = false
  timed : c.output.sends = true ∨ c.lockPhase = some .clock → c.timing.isSome = true
  legal : ∀ t, c.timing = some t → t.legal = true
  inside : ∀ t lp, c.timing = some t → c.line = some lp → lp.line < t.h + t.v ∧ lp.period < t.b + t.w

/-- The fault unit: the later-error count is 0 while the latch is clear, and it does not pass 65535 (R149, section
8.1.1). -/
def FaultWf (f : FaultUnit) : Prop :=
  (f.latch = false → f.later = 0) ∧ f.later ≤ 65535

/-- The memory port: at most eight reads are outstanding, each under a tag of its own, and the outstanding write has the
write tag; all of them are tags given out since the last power-on reset (R162, R163, R170, log entry 8). -/
structure PortWf (p : Port) : Prop where
  reads : p.reads.length ≤ 8
  distinct : (p.reads.map Place.tag).Nodup
  low : ∀ t ∈ p.reads.map Place.tag, readTag p.epoch 0 ≤ t ∧ t < writeTag p.epoch
  write : ∀ pl ∈ p.write, pl.tag = writeTag p.epoch

/-- The state after a response has freed its place (R163). -/
def freed (tag : Nat) (s : State) : State :=
  s.modPort (Port.free tag)

/-- RESET_N is released, and `tag` is that of an outstanding burst `b` of the kinds `k`, not abandoned, whose requester
has not ended the work it belongs to (R163). -/
def Awaits (k : BurstKind → Bool) (tag : Nat) (b : Burst) (s : State) : Prop :=
  s.resetHeld = false ∧ s.port.find k tag = some b ∧ b.dropped = false

/-- The bytes that a response's beats hold for a burst: its own (R161, R164). -/
def named (b : Burst) (data : List Byte) : List Byte :=
  (data.drop (b.addr.toNat % 8)).take b.len

/-- R160, R162: which kinds of bursts are writes, which requester presents each, and which kinds each response answers. -/
structure BurstKinds : Prop where
  writes : ∀ k : BurstKind, k.isWrite = true ↔
    (∃ n seq asks, k = .slotWrite n seq asks) ∨ k = .active ∨ k = .pixel ∨ k = .stamp ∨ k = .final ∨ k = .status
  fetch : ∀ k : BurstKind, k.requester = .fetch ↔ ∃ line place off, k = .span line place off
  loader : ∀ k : BurstKind, k.requester = .loader ↔
    k.isLoaderRead = true ∨ ∃ n seq asks, k = .slotWrite n seq asks
  status : ∀ k : BurstKind, k.requester = .status ↔ k = .status
  loaderReads : ∀ k : BurstKind, k.isLoaderRead = true ↔ k = .timing ∨ (∃ n, k = .descriptor n) ∨ ∃ off, k = .body off
  timing : ∀ k : BurstKind, k.isTiming = true ↔ k = .timing
  descriptor : ∀ k : BurstKind, k.isDescriptor = true ↔ ∃ n, k = .descriptor n
  body : ∀ k : BurstKind, k.isBody = true ↔ ∃ off, k = .body off
  slotWrite : ∀ k : BurstKind, k.isSlotWrite = true ↔ ∃ n seq asks, k = .slotWrite n seq asks
  span : ∀ k : BurstKind, k.isSpan = true ↔ ∃ line place off, k = .span line place off
  ofSpan : ∀ (place : Nat) (k : BurstKind), k.ofSpan place = true ↔ ∃ line off, k = .span line place off
  orderHead : ∀ k : BurstKind, k.isOrderHead = true ↔ ∃ a off, k = .orderHead a off
  remainder : ∀ k : BurstKind, k.isRemainder = true ↔ ∃ off, k = .remainder off
  copySrc : ∀ k : BurstKind, k.isCopySrc = true ↔ ∃ off, k = .copySrc off
  statusWrite : ∀ k : BurstKind, k.isStatus = true ↔ k = .status

/-! ### Fields in shared memory (R182 to R188) -/

/-- R182: what the field at offset `o` of the bytes `l` is, as each width reads it: little-endian, a signed field in two's
complement, a colour as blue, green and red. -/
structure FieldRule (l : List Byte) (o : Nat) : Prop where
  byte : ∀ a, l[o]? = some a → u8 l o = a
  half : ∀ a b, l[o]? = some a → l[o + 1]? = some b → u16 l o = a.toNat + 256 * b.toNat
  word : ∀ a b c d, l[o]? = some a → l[o + 1]? = some b → l[o + 2]? = some c → l[o + 3]? = some d →
    (u32 l o).toNat = a.toNat + 256 * b.toNat + 65536 * c.toNat + 16777216 * d.toNat
  signed : ∀ a b, l[o]? = some a → l[o + 1]? = some b →
    s16 l o = if b.toNat < 128 then (a.toNat + 256 * b.toNat : Int) else (a.toNat + 256 * b.toNat : Int) - 65536
  colour : ∀ b g r, l[o]? = some b → l[o + 1]? = some g → l[o + 2]? = some r → colourAt l o = { r := r, g := g, b := b }

/-- R182: the 2 and 4 bytes as which a value is written, little-endian too. -/
structure WrittenRule : Prop where
  half : ∀ n, n < 65536 → (le16 n).length = 2 ∧ u16 (le16 n) 0 = n
  word : ∀ w, (le32 w).length = 4 ∧ u32 (le32 w) 0 = w

/-- R51, section 11.2.1: the fields of a timing record, each at its offset in the record's 24 bytes. -/
def TimingFields (l : List Byte) : Prop :=
  parseTiming l =
    { w := u16 l 0, h := u16 l 2, b := u16 l 4, v := (u8 l 6).toNat, div := (u8 l 7).toNat, outWidth := (u8 l 8).toNat,
      hsyncHigh := (u8 l 9).getLsbD 0, vsyncHigh := (u8 l 9).getLsbD 1, markDiv := (u8 l 10).toNat,
      markDelay := u16 l 12, idle := colourAt l 16, tag := u32 l 20 }

/-- R184: the fields of a slot descriptor, each at its offset in the 20 bytes read. -/
def DescriptorFields (l : List Byte) : Prop :=
  parseDescriptor l =
    { state := u8 l 0, seq := u32 l 4, bodyAddr := u32 l 8, bodyLen := u32 l 12, check := u32 l 16 }

/-- R186: the fields of an order of each kind, each at its offset from the first byte of the record `r`; the remainder
that is read is what follows the 12-byte head. -/
structure OrderFields (r : List Byte) : Prop where
  copy : parseOrder 1 (r.drop 12) =
    .copy
      { src := { base := u32 r 12, pitch := (u32 r 16).toNat, format := u8 r 24, w := u16 r 20, h := u16 r 22 },
        dst := { base := u32 r 36, pitch := (u32 r 40).toNat, format := u8 r 25, w := u16 r 44, h := u16 r 46 },
        rotation := u8 r 26, mirror := (u8 r 27).getLsbD 0, sx := u16 r 28, sy := u16 r 30, w := u16 r 32, h := u16 r 34,
        dx := u16 r 48, dy := u16 r 50 }
  fill : parseOrder 2 (r.drop 12) =
    .fill
      { dst := { base := u32 r 12, pitch := u16 r 16, format := u8 r 18, w := u16 r 20, h := u16 r 22 },
        rect := { x := u16 r 24, y := u16 r 26, w := u16 r 28, h := u16 r 30 }, colour := colourAt r 32 }
  fence : parseOrder 3 (r.drop 12) = .fence (u8 r 12) (u32 r 16) (u32 r 20)
  stamp : parseOrder 4 (r.drop 12) = .stamp (u32 r 12) (u32 r 16)
  other : ∀ kind : Byte, kind.toNat = 0 ∨ 5 ≤ kind.toNat → parseOrder kind (r.drop 12) = .unknown

/-- R188: the codes in the order of their byte values. -/
def codeTable : List Code :=
  [.none, .stale, .sequenceBad, .lengthBad, .alignBad, .busFault, .checkMismatch, .countBad, .kindBad, .formatBad,
   .fieldConflict, .geometryBad, .ringBad, .motionBad, .depthExceeded, .budgetExceeded, .overlapBad, .timingBad,
   .lockTimeout, .chainLoop]

/-- R108, section 7.2: the state byte and the code of each final status. -/
structure StatusBytes : Prop where
  done : FinalStatus.done.stateByte = 3 ∧ FinalStatus.done.code = .none
  refused : ∀ c, (FinalStatus.refused c).stateByte = 4 ∧ (FinalStatus.refused c).code = c
  fault : FinalStatus.fault.stateByte = 5 ∧ FinalStatus.fault.code = .busFault
  aborted : FinalStatus.aborted.stateByte = 6 ∧ FinalStatus.aborted.code = .none
  timedOut : FinalStatus.timedOut.stateByte = 7 ∧ FinalStatus.timedOut.code = .none
  noOutput : FinalStatus.noOutput.stateByte = 8 ∧ FinalStatus.noOutput.code = .none

/-- R188, R187: the byte values of the codes, and the source, slot and window index bytes of the error record. -/
structure RecordBytes : Prop where
  codes : codeTable.map Code.toByte = (List.range 20).map (BitVec.ofNat 8)
  everyCode : ∀ c, c ∈ codeTable
  sources : [none, some .scene, some .timing, some .fetch, some .paint].map sourceByte = [0, 1, 2, 3, 4]
  noSlot : slotByte none = 0xFF
  slot : ∀ n, slotByte (some n) = BitVec.ofNat 8 n.val
  noWindow : windowByte none = 0xFF
  window : ∀ n, windowByte (some n) = BitVec.ofNat 8 n

/-! ### Reads of a load that have been discarded -/

/-- R9, R14: the reads `k` of a load that an ERROR ends, from the port `p` to the port `u`: those granted, and the one
presented, are marked to be discarded, and those behind the presented burst are no longer requested. Every other burst
stands. That a presented read stays is the model's choice, and the mark is its own (log entries 12 and 21). -/
structure ReadsStopped (k : BurstKind → Bool) (p u : Port) : Prop where
  rest : u =
    { p with
      loader := u.loader
      reads := p.reads.map fun pl => if k pl.burst.kind then { pl with burst := { pl.burst with dropped := true } } else pl }
  empty : p.loader = [] → u.loader = []
  loader : ∀ c cs, p.loader = c :: cs →
    u.loader = (if k c.kind then { c with dropped := true } else c) :: cs.filter fun d => !k d.kind

/-! ### Requests that change nothing, and the fields of RUN -/

/-- An output request that finds its block where it asks it to be (R54: "no effect"). -/
def idleRequest (t : OutputTarget) (o : OutputState) : Bool :=
  match t with
  | .off => o == .off
  | .park => o == .parked || o == .parking
  | .run => o == .locking || o == .running

/-- A RUN write asks for no work that a control block of address 0 would be needed for (R176). -/
def RunAllowed (t : OutputTarget) (paint : Bool) (s : State) : Prop :=
  s.regs.dirBase ≠ 0 ∨ (t = .off ∧ paint = false)

/-- RUN holds these three fields, and the other registers but for EVENTS stand as they were in `s` (R175). -/
def RunHolds (t : OutputTarget) (paint : Bool) (mode : FaultMode) (s u : State) : Prop :=
  u.regs.runOutput = t ∧ u.regs.runPaint = paint ∧ u.regs.runMode = mode ∧ u.regs.dirBase = s.regs.dirBase ∧
    u.regs.enable = s.regs.enable

/-- `s` with CONFIG_REFUSED raised and nothing else changed (R176). -/
def refused (s : State) : State :=
  { s with regs := { s.regs with events := s.regs.events ||| 0x800 } }

/-! ### Outcomes of a load and of an entry to LOCKING -/

/-- R57: `s` after a failed entry to LOCKING has returned to `o`: the output state and RUN OUTPUT name it, the entry's
origin, lock phase and timer are gone, the fault is reported, OUTPUT_STOPPED is raised and a status block is asked for.
Everything else, the timing in effect included, stands. -/
def returnedToOrigin (o : Origin) (code : Code) (addr : Word) (s : State) : State :=
  { s with
    regs := { s.regs with runOutput := o.target, events := s.regs.events ||| 0x080 }
    scan := { s.scan with output := o.output, origin := none, lockPhase := none, timerOn := false }
    fault :=
      { s.fault with
        reports :=
          s.fault.reports ++ [{ source := .timing, code := code, slot := none, window := none, seq := 0, addr := addr }] }
    writer := { s.writer with wantBlock := true } }

/-- R15: `s` after its load has rejected slot `n`: the REJECTED write issued and SCENE_REJECTED raised, the fault
reported, and the loader IDLE with no candidate and no skip set. No table and no record changes. -/
def loadRejected (n : Slot) (d : Descriptor) (code : Code) (window : Option Nat) (addr : Word) (s : State) : State :=
  { s with
    regs := { s.regs with events := s.regs.events ||| 0x002 }
    loader :=
      { s.loader with
        phase := .idle, candidate := none, skip := [], image := [], bodyLeft := 0, descLeft := 0,
        descs := Vector.replicate 4 none }
    fault :=
      { s.fault with
        reports :=
          s.fault.reports ++
            [{ source := .scene, code := code, slot := some n, window := window, seq := d.seq, addr := addr }] }
    port :=
      { s.port with
        loader :=
          s.port.loader ++
            [burstAt (.slotWrite n d.seq false) (s.regs.dirBase.toNat + 0x20 + 32 * n.val) 4 [4, code.toByte, 0, 0]] } }

/-- The loader's records when its load has ended: IDLE, with no candidate, no skip set and nothing read. -/
def loadEnded (l : Loader) : Loader :=
  { l with
    phase := .idle, candidate := none, skip := [], image := [], bodyLeft := 0, descLeft := 0,
    descs := Vector.replicate 4 none }

/-- R4, R10: the code with which an offer is marked REJECTED as the descriptor phase of `l` ends, or none. -/
def offerCode (l : Loader) (d : Descriptor) : Option Code :=
  if d.seq = 0 then some .sequenceBad
  else if l.hasShown = true ∧ ¬NewerSeq d.seq l.shownSeq then some .stale
  else none

/-- R2, R10: the REJECTED writes that end the descriptor phase of `l`, in ascending slot index, the control block being
at `base`. -/
def markWrites (base : Word) (l : Loader) : List Burst :=
  ([0, 1, 2, 3] : List Slot).filterMap fun n =>
    match l.descs[n.val] with
    | none => none
    | some d =>
      if d.state = 1 then
        (offerCode l d).map fun code =>
          burstAt (.slotWrite n d.seq false) (base.toNat + 0x20 + 32 * n.val) 4 [4, code.toByte, 0, 0]
      else none

/-- R13: a candidate whose body length is refused. -/
def BodyLengthBad (d : Descriptor) : Prop :=
  d.bodyLen.toNat < 8 ∨ 1024 < d.bodyLen.toNat ∨ d.bodyLen.toNat % 4 ≠ 0

/-- R13: the code with which the body of a candidate is refused before any of it is read. -/
def BodyRefused (d : Descriptor) (code : Code) : Prop :=
  (code = .lengthBad ∧ BodyLengthBad d) ∨ (code = .alignBad ∧ ¬BodyLengthBad d ∧ d.bodyAddr.toNat % 8 ≠ 0)

/-- The conditions of R8 but for the output state. -/
def MayLoad (s : State) : Prop :=
  s.loader.staged = none ∧ s.loader.phase = .idle ∧
    (s.loader.shownSlot = none ∨ s.loader.shownMin ≤ s.loader.framesShown) ∧
    (s.fault.latch = false ∨ s.regs.runMode = .continue)

/-- R8: what a latch point in RUNNING does to the scene loader of `s`, seen in `u`. -/
def LoadsIfAllowed (s u : State) : Prop :=
  (MayLoad s →
      u.loader =
          { s.loader with
            phase := .descriptors, candidate := none, skip := [], image := [], bodyLeft := 0,
            descs := Vector.replicate 4 none, descLeft := if s.loader.shownSlot = none then 4 else 3 } ∧
        u.port.loader =
          s.port.loader ++
            ([0, 1, 2, 3].filter fun n => s.loader.shownSlot ≠ some n).map fun n : Slot =>
              burstAt (.descriptor n) (s.regs.dirBase.toNat + 0x20 + 32 * n.val) 20 []) ∧
    (¬MayLoad s → u.loader = s.loader ∧ u.port.loader = s.port.loader)

/-- A burst without the mark of a slot write at whose issue a status block is asked for (log entry 25). -/
def unasked (b : Burst) : Burst :=
  match b.kind with
  | .slotWrite n seq _ => { b with kind := .slotWrite n seq false }
  | _ => b

/-- A slot write at whose issue a status block is asked for (R18, R26, R63, log entry 25). -/
def Burst.asks (b : Burst) : Bool :=
  match b.kind with
  | .slotWrite _ _ asks => asks
  | _ => false

/-- The bursts of the loader's place with the first one presented, and so issued (R160, R166): it has asked for its block
(log entry 25). -/
def firstIssued (l : List Burst) : List Burst :=
  match l with
  | [] => []
  | b :: rest => unasked b :: rest

/-- R18, R26, R63, R166: in `u` the loader's place holds `l`, whose first burst stands presented; a status block is asked
for with the issue of a write that asks for it, and by that issue alone. -/
def LoaderIssues (l : List Burst) (s u : State) : Prop :=
  u.port.loader = firstIssued l ∧
    u.writer = if l.head?.any Burst.asks then { s.writer with wantBlock := true } else s.writer

/-! ### The lists of a line and its fetch (R73 to R75, R82 to R85, R95 to R98) -/

/-- R73: the unclipped rows of `w` include line `y`. -/
def OnLine (y : Nat) (w : Window) : Prop :=
  w.dst.y ≤ y ∧ y < w.dst.y + w.dst.h

/-- R82, R83: `row` is the surface row that line `y` reads of a SURFACE window with destination `dst` and motion offset
`o`. -/
def ReadsRow (dst : Rect) (sf : Surface) (o : Option Offset) (y row : Nat) : Prop :=
  (sf.ring = none → row = sf.srcY + (y - dst.y)) ∧
    ∀ r off, sf.ring = some r → o = some off → r.h ≠ 0 →
      (row : Int) = r.y + (((off.row : Int) - r.y) + ((y : Int) - dst.y)) % r.h

/-- R82, R83: `col` is the surface column that panel column `x` reads of a SURFACE window with destination `dst` and
motion offset `o`. -/
def ReadsCol (dst : Rect) (sf : Surface) (o : Option Offset) (x col : Nat) : Prop :=
  (sf.ring = none → col = sf.srcX + (x - dst.x)) ∧
    ∀ r off, sf.ring = some r → o = some off → r.w ≠ 0 →
      (col : Int) = r.x + (((off.col : Int) - r.x) + ((x : Int) - dst.x)) % r.w

/-- R73, R74, R75: the coming list of `u` is the one for line `y` on a panel `w` pixels wide: the windows of the shown
table that lie on the line, lowest first, each with its clipped column range, its source row, and a mark when its
fault flag is set. -/
structure ListsLine (w y : Nat) (u : State) : Prop where
  ascending : (u.comp.coming.map Listed.pos).Pairwise (· < ·)
  windows : ∀ i, i ∈ u.comp.coming.map Listed.pos ↔ ∃ x, u.loader.shownTable[i]? = some x ∧ OnLine y x
  columns : ∀ l ∈ u.comp.coming, ∀ x, u.loader.shownTable[l.pos]? = some x →
    l.first = x.dst.x ∧ ∀ c, (l.first ≤ c ∧ c < l.first + l.count) ↔ (x.dst.x ≤ c ∧ c < x.dst.x + x.dst.w ∧ c < w)
  rows : ∀ l ∈ u.comp.coming, ∀ x sf, u.loader.shownTable[l.pos]? = some x → x.content = .surface sf →
    ReadsRow x.dst sf (u.comp.offsets.getD l.pos none) y l.row
  marks : ∀ l ∈ u.comp.coming, l.mark = (u.comp.flags.toList[l.pos]? == some true)

/-- R96, R97: the pieces `ps` of a span hold, one byte after another, the bytes of the `n` pixels of surface row `row`
that the window's panel columns from its first on read. Those of a ring span are split at every wrap and nowhere else:
every piece but the last ends at the ring's last column, every piece but the first begins at ring column 0, and none is
empty. -/
def PiecesOf (dst : Rect) (sf : Surface) (o : Option Offset) (row n : Nat) (ps : List (Nat × Nat)) : Prop :=
  (sf.ring = none →
      ps = [(sf.base.toNat + row * sf.pitch + sf.srcX * sf.format.bytes, n * sf.format.bytes)]) ∧
    ∀ r off, sf.ring = some r → o = some off → r.w ≠ 0 →
      ∃ cols : List Nat, cols.length = n ∧ (∀ k col, cols[k]? = some col → ReadsCol dst sf o (dst.x + k) col) ∧
        ((ps.flatMap fun p => (List.range p.2).map (p.1 + ·)) =
          cols.flatMap fun col =>
            (List.range sf.format.bytes).map (sf.base.toNat + row * sf.pitch + col * sf.format.bytes + ·)) ∧
        (∀ p ∈ ps.dropLast, p.1 + p.2 = sf.base.toNat + row * sf.pitch + (r.x + r.w) * sf.format.bytes) ∧
        (∀ p ∈ ps.tail, p.1 = sf.base.toNat + row * sf.pitch + r.x * sf.format.bytes) ∧ ∀ p ∈ ps, 1 ≤ p.2

/-- R98: the bursts of the pieces `ps` of the span at `place`, piece after piece, each cut as R161 says. -/
def spanReads (line place : Nat) (ps : List (Nat × Nat)) : List Burst :=
  ps.zipIdx.flatMap fun p =>
    runBursts (fun o => .span line place (((ps.take p.2).map Prod.snd).sum + o)) p.1.1 p.1.2 []

/-- R95 to R98: in `u` the fetch of line `y` has begun with the coming list: a span place for each window of the list, the
pieces of each span that is needed, and their bursts presented behind `pre`. -/
structure FetchBegun (y : Nat) (pre : List Burst) (u : State) : Prop where
  active : u.fetch.active = some y
  places : u.fetch.filling.map Span.pos = u.comp.coming.map Listed.pos
  unread : ∀ (i : Nat) (l : Listed) (x : Window), u.comp.coming[i]? = some l → u.loader.shownTable[l.pos]? = some x →
    ((∃ c, x.content = .fill c) ∨ l.count = 0 ∨ l.mark = true) →
    u.fetch.filling[i]? = some { pos := l.pos, status := .none, pieces := [], data := [], left := 0 }
  read : ∀ (i : Nat) (l : Listed) (x : Window) (sf : Surface), u.comp.coming[i]? = some l →
    u.loader.shownTable[l.pos]? = some x → x.content = .surface sf → l.count ≠ 0 → l.mark = false →
    ∃ ps, PiecesOf x.dst sf (u.comp.offsets.getD l.pos none) l.row l.count ps ∧
      u.fetch.filling[i]? =
        some
          { pos := l.pos, status := .waiting, pieces := ps, data := List.replicate (l.count * sf.format.bytes) 0,
            left := (spanReads y i ps).length }
  requests : u.port.fetch = pre ++ u.fetch.filling.zipIdx.flatMap fun p => spanReads y p.2 p.1.pieces

/-- R84: the motion offset a window of a new shown table starts from. -/
def StartsAt (w : Window) (o : Option Offset) : Prop :=
  ∀ sf, w.content = .surface sf →
    (sf.ring = none → o = none) ∧ (sf.ring ≠ none → o = some { col := sf.srcX, row := sf.srcY })

/-- R85: one motion advance of a window takes its offset from `o` to `o'`. -/
def Advances (w : Window) (o o' : Option Offset) : Prop :=
  ((∀ sf, w.content = .surface sf → sf.motion = none) → o' = o) ∧
    ∀ sf r m off, w.content = .surface sf → sf.ring = some r → sf.motion = some m → o = some off → r.w ≠ 0 → r.h ≠ 0 →
      ∃ off', o' = some off' ∧ (off'.col : Int) = r.x + ((off.col : Int) - r.x + m.stepX) % r.w ∧
        (off'.row : Int) = r.y + ((off.row : Int) - r.y + m.stepY) % r.h

/-! ### The line start with two phases (R68) -/

/-- R68: with one blank line, the latch point of this line start has been taken and its frame open is due. -/
def BetweenPhases (s : State) : Prop :=
  ∃ t lp, s.scan.timing = some t ∧ s.scan.line = some lp ∧ lp.line = t.h ∧ lp.openDue = true ∧ lp.latchDue = false

/-! ### The scene checks (R29, R35 to R46) -/

/-- R39 to R44: the window check named by `code`, on the fields of one record of a legal kind. -/
def WindowFails (w : RawWindow) : Code → Prop
  | .formatBad => (w.kind = 1 ∧ w.format ≠ 0) ∨ (w.kind = 2 ∧ w.format ≠ 1 ∧ w.format ≠ 2)
  | .fieldConflict => 16 < w.ratio ∨ (w.kind = 1 ∧ (w.key ≠ none ∨ w.ring ≠ none ∨ w.motion ≠ none))
  | .alignBad =>
    w.kind = 2 ∧
      (w.base.toNat % 8 ≠ 0 ∨ w.pitch % 8 ≠ 0 ∨ w.pitch < 8 ∨ 32768 < w.pitch ∨
        w.pitch < w.sw * (if w.format = 1 then 2 else 4))
  | .geometryBad =>
    4095 < w.dst.x ∨ 4095 < w.dst.y ∨ w.dst.w = 0 ∨ 2048 < w.dst.w ∨ w.dst.h = 0 ∨ 2048 < w.dst.h ∨
      (w.kind = 2 ∧
        (w.sw = 0 ∨ 4096 < w.sw ∨ w.sh = 0 ∨ 4096 < w.sh ∨ 4095 < w.sx ∨ 4095 < w.sy ∨
          (w.ring = none ∧ (w.sw < w.sx + w.dst.w ∨ w.sh < w.sy + w.dst.h)) ∨
          0xFFFFFFFF < w.base.toNat + (w.sh - 1) * w.pitch + w.sw * (if w.format = 1 then 2 else 4) - 1))
  | .ringBad =>
    w.kind = 2 ∧ ∃ r, w.ring = some r ∧
      (r.w = 0 ∨ r.h = 0 ∨ w.sw < r.x + r.w ∨ w.sh < r.y + r.h ∨ w.sx < r.x ∨ r.x + r.w ≤ w.sx ∨ w.sy < r.y ∨
        r.y + r.h ≤ w.sy)
  | .motionBad =>
    w.kind = 2 ∧ ∃ m, w.motion = some m ∧
      (w.ring = none ∨ m.stepX < -64 ∨ 64 < m.stepX ∨ m.stepY < -64 ∨ 64 < m.stepY)
  | _ => False

/-- `code` is the first of the checks `order` that fails, each check being told by `fails`. -/
def FirstOf (order : List Code) (fails : Code → Prop) (code : Code) : Prop :=
  ∃ pre post : List Code, order = pre ++ code :: post ∧ fails code ∧ ∀ c ∈ pre, ¬fails c

/-- R35: the window checks after KIND_BAD, in their order. -/
def windowChecks : List Code :=
  [.formatBad, .fieldConflict, .alignBad, .geometryBad, .ringBad, .motionBad]

/-- R29, R38, R39: the record walk of a body image: what it answers for no record, and for one record and the walk of
those behind it. -/
structure WalkRule (body : List Byte) : Prop where
  done : ∀ i o, walkRecords body 0 i o = .ok ([], o)
  noWord : ∀ n i o, body.length < o + 4 → walkRecords body (n + 1) i o = .error (.lengthBad, none)
  noKind : ∀ n i o, o + 4 ≤ body.length → u8 body o ≠ 1 → u8 body o ≠ 2 →
    walkRecords body (n + 1) i o = .error (.kindBad, some i)
  noRecord : ∀ n i o, o + 4 ≤ body.length → u8 body o = 1 ∨ u8 body o = 2 → body.length < o + recordLength body o →
    walkRecords body (n + 1) i o = .error (.lengthBad, none)
  failing : ∀ n i o code, u8 body o = 1 ∨ u8 body o = 2 → o + recordLength body o ≤ body.length →
    FirstOf windowChecks (WindowFails (parseRecord body o)) code → walkRecords body (n + 1) i o = .error (code, some i)
  passed : ∀ n i o, u8 body o = 1 ∨ u8 body o = 2 → o + recordLength body o ≤ body.length →
    (∀ code ∈ windowChecks, ¬WindowFails (parseRecord body o) code) →
    walkRecords body (n + 1) i o =
      (walkRecords body n (i + 1) (o + recordLength body o)).map fun p => (windowOf (parseRecord body o) :: p.1, p.2)
  fillLength : ∀ o, u8 body o = 1 → recordLength body o = 16
  surfaceLength : ∀ o, u8 body o ≠ 1 →
    recordLength body o =
      28 + (if (u8 body (o + 3)).getLsbD 0 then 4 else 0) + (if (u8 body (o + 3)).getLsbD 1 then 8 else 0) +
        (if (u8 body (o + 3)).getLsbD 2 then 4 else 0)

/-- R29, R185: the fields of the record at `o` of a body image as its checks read them (WindowFails), each at its
offset. -/
structure RecordRule (body : List Byte) (o : Nat) : Prop where
  kind : (parseRecord body o).kind = (u8 body o).toNat
  format : (parseRecord body o).format = u8 body (o + 1)
  ratio : (parseRecord body o).ratio = (u8 body (o + 2)).toNat
  dst : (parseRecord body o).dst =
    { x := u16 body (o + 4), y := u16 body (o + 6), w := u16 body (o + 8), h := u16 body (o + 10) }
  base : (parseRecord body o).base = u32 body (o + 12)
  pitch : (parseRecord body o).pitch = (u32 body (o + 16)).toNat
  size : (parseRecord body o).sw = u16 body (o + 20) ∧ (parseRecord body o).sh = u16 body (o + 22)
  source : (parseRecord body o).sx = u16 body (o + 24) ∧ (parseRecord body o).sy = u16 body (o + 26)
  key : (parseRecord body o).key = if (u8 body (o + 3)).getLsbD 0 then some (colourAt body (o + 28)) else none
  ring : ∀ r, r = o + 28 + (if (u8 body (o + 3)).getLsbD 0 then 4 else 0) →
    (parseRecord body o).ring =
      if (u8 body (o + 3)).getLsbD 1 then
        some { x := u16 body r, y := u16 body (r + 2), w := u16 body (r + 4), h := u16 body (r + 6) }
      else none
  motion : ∀ m,
    m = o + 28 + (if (u8 body (o + 3)).getLsbD 0 then 4 else 0) + (if (u8 body (o + 3)).getLsbD 1 then 8 else 0) →
    (parseRecord body o).motion =
      if (u8 body (o + 3)).getLsbD 2 then some { stepX := s16 body m, stepY := s16 body (m + 2) } else none

/-- R29, R47, R185: what the table entry of the record at `o` of a body image holds. -/
structure EntryRule (body : List Byte) (o : Nat) : Prop where
  ratio : (windowOf (parseRecord body o)).ratio = (u8 body (o + 2)).toNat
  dst : (windowOf (parseRecord body o)).dst =
    { x := u16 body (o + 4), y := u16 body (o + 6), w := u16 body (o + 8), h := u16 body (o + 10) }
  fill : u8 body (o + 1) = 0 → (windowOf (parseRecord body o)).content = .fill (colourAt body (o + 12))
  surface : ∀ (f : Format) (key : Option Rgb) (ring : Option Rect) (motion : Option Motion) (r m : Nat),
    (u8 body (o + 1) = 1 ∧ f = .rgb565) ∨ (u8 body (o + 1) = 2 ∧ f = .xrgb8888) →
    r = o + 28 + (if (u8 body (o + 3)).getLsbD 0 then 4 else 0) →
    m = r + (if (u8 body (o + 3)).getLsbD 1 then 8 else 0) →
    key = (if (u8 body (o + 3)).getLsbD 0 then some (colourAt body (o + 28)) else none) →
    ring =
      (if (u8 body (o + 3)).getLsbD 1 then
        some { x := u16 body r, y := u16 body (r + 2), w := u16 body (r + 4), h := u16 body (r + 6) }
      else none) →
    motion =
      (if (u8 body (o + 3)).getLsbD 2 then some { stepX := s16 body m, stepY := s16 body (m + 2) } else none) →
    (windowOf (parseRecord body o)).content =
      .surface
        { format := f, base := u32 body (o + 12), pitch := (u32 body (o + 16)).toNat, srcX := u16 body (o + 24),
          srcY := u16 body (o + 26), key := key, ring := ring, motion := motion,
          view :=
            match ring with
            | some q => q
            | none => { x := u16 body (o + 24), y := u16 body (o + 26), w := u16 body (o + 8), h := u16 body (o + 10) } }

/-- R48: the in-view entries of a table: one for each SURFACE window, its base, its pitch and its view rectangle. -/
structure ViewRule : Prop where
  none : viewEntries [] = []
  fill : ∀ w ws c, w.content = .fill c → viewEntries (w :: ws) = viewEntries ws
  surface : ∀ w ws sf, w.content = .surface sf →
    viewEntries (w :: ws) = { base := sf.base, pitch := sf.pitch, rect := sf.view } :: viewEntries ws

/-- R45: line `y` is covered by more than 8 of the windows `ws`. -/
def TooDeep (ws : List Window) (y : Nat) : Prop :=
  8 < (ws.filter fun w => decide (w.dst.y ≤ y) && decide (y < w.dst.y + w.dst.h)).length

/-- R46: on line `y` the widths of the SURFACE windows of `ws` sum to more than 4096. -/
def TooWide (ws : List Window) (y : Nat) : Prop :=
  4096 <
    ((ws.filter fun w => decide (w.dst.y ≤ y) && decide (y < w.dst.y + w.dst.h)).map fun w =>
      match w.content with | .fill _ => 0 | .surface _ => w.dst.w).sum

/-- R36: the CRC of a run of bytes, bit by bit. -/
def crcOf (l : List Byte) : Word :=
  ~~~(l.foldl (init := 0xFFFFFFFF) fun c b =>
      (fun r : Word => if r.getLsbD 0 then (r >>> 1) ^^^ 0x82F63B78 else r >>> 1)^[8] (c ^^^ b.zeroExtend 32))

/-- R35: the six steps of the checks of a body image against its descriptor, the first that fails naming the result. -/
structure CheckRule (d : Descriptor) (body : List Byte) : Prop where
  mismatch : crcOf (le32 d.seq ++ le32 d.bodyLen ++ body) ≠ d.check → checkScene d body = .error (.checkMismatch, none)
  count : crcOf (le32 d.seq ++ le32 d.bodyLen ++ body) = d.check → 16 < (u8 body 0).toNat →
    checkScene d body = .error (.countBad, none)
  windows : ∀ e, crcOf (le32 d.seq ++ le32 d.bodyLen ++ body) = d.check → (u8 body 0).toNat ≤ 16 →
    walkRecords body (u8 body 0).toNat 0 8 = .error e → checkScene d body = .error e
  last : ∀ ws stop, crcOf (le32 d.seq ++ le32 d.bodyLen ++ body) = d.check → (u8 body 0).toNat ≤ 16 →
    walkRecords body (u8 body 0).toNat 0 8 = .ok (ws, stop) →
    (stop ≠ body.length → checkScene d body = .error (.lengthBad, none)) ∧
      (stop = body.length → (∃ y, TooDeep ws y) → checkScene d body = .error (.depthExceeded, none)) ∧
      (stop = body.length → (∀ y, ¬TooDeep ws y) → (∃ y, TooWide ws y) →
        checkScene d body = .error (.budgetExceeded, none)) ∧
      (stop = body.length → (∀ y, ¬TooDeep ws y) → (∀ y, ¬TooWide ws y) →
        checkScene d body =
          .ok
            { minFrames := if u8 body 1 = 0 then 1 else (u8 body 1).toNat, bg := colourAt body 4, windows := ws })

/-! ### The order checks (R130 to R136) -/

/-- R131: a base and pitch that fail ALIGN_BAD. -/
def BaseOrPitchBad (f : OrderSurface) : Prop :=
  f.base.toNat % 8 ≠ 0 ∨ f.pitch % 8 ≠ 0 ∨ f.pitch < 8 ∨ 32768 < f.pitch

/-- R133: a surface that fails GEOMETRY_BAD. -/
def SurfaceBad (f : OrderSurface) : Prop :=
  f.w = 0 ∨ 4096 < f.w ∨ f.h = 0 ∨ 4096 < f.h ∨ f.pitch < f.w * (if f.format = 1 then 2 else 4) ∨
    0xFFFFFFFF < f.base.toNat + (f.h - 1) * f.pitch + f.w * (if f.format = 1 then 2 else 4) - 1

/-- R133: a rectangle of an illegal size or place, or one that does not lie inside its surface. -/
def RectBad (r : Rect) (f : OrderSurface) : Prop :=
  r.w = 0 ∨ 4096 < r.w ∨ r.h = 0 ∨ 4096 < r.h ∨ 4095 < r.x ∨ 4095 < r.y ∨ f.w < r.x + r.w ∨ f.h < r.y + r.h

/-- Pixel (x, y) lies in a rectangle. -/
def InRect (x y : Nat) (r : Rect) : Prop :=
  r.x ≤ x ∧ x < r.x + r.w ∧ r.y ≤ y ∧ y < r.y + r.h

/-- R133, R134: the source rectangle of a COPY. -/
def copySource (c : CopyFields) : Rect :=
  { x := c.sx, y := c.sy, w := c.w, h := c.h }

/-- R133, R134: the destination rectangle of a COPY, turned by rotation 90 and 270. -/
def copyTarget (c : CopyFields) : Rect :=
  { x := c.dx, y := c.dy, w := if c.rotation = 1 ∨ c.rotation = 3 then c.h else c.w,
    h := if c.rotation = 1 ∨ c.rotation = 3 then c.w else c.h }

/-- R31, R134: the byte address of the pixel `p`, column and row, of the source rectangle of a COPY whose source has the
format `f`. -/
def sourceAddr (c : CopyFields) (f : Format) (p : Nat × Nat) : Nat :=
  c.src.base.toNat + (c.sy + p.2) * c.src.pitch + (c.sx + p.1) * f.bytes

/-- R139: the destination surface and rectangle of a COPY or FILL. -/
def Paints (o : Order) (f : OrderSurface) (r : Rect) : Prop :=
  (∃ c, o = .copy c ∧ f = c.dst ∧ r = copyTarget c) ∨ ∃ d, o = .fill d ∧ f = d.dst ∧ r = d.rect

/-- R139: an order overlaps a table of in-view entries: one of them has the base and the pitch of its destination surface
and shares a pixel with its destination rectangle. -/
def Overlaps (o : Order) (vs : List ViewEntry) : Prop :=
  ∃ f r, Paints o f r ∧
    ∃ e ∈ vs, e.base = f.base ∧ e.pitch = f.pitch ∧ ∃ x y, InRect x y e.rect ∧ InRect x y r

/-- R136, R137: a COPY whose rows are taken from the bottom upward: source and destination are the same surface, their
rectangles share a pixel, and the destination lies lower. -/
def FromBelow (c : CopyFields) : Prop :=
  c.src.base = c.dst.base ∧ c.src.pitch = c.dst.pitch ∧
    (∃ x y, InRect x y (copySource c) ∧ InRect x y (copyTarget c)) ∧ c.sy < c.dy

/-- R31: the byte address of pixel (x, y) of an order's surface. -/
def pixelAddress (f : OrderSurface) (x y : Nat) : Nat :=
  f.base.toNat + y * f.pitch + x * (if f.format = 1 then 2 else 4)

/-- R130: the checks of an order, in their order. -/
def orderChecks : List Code :=
  [.kindBad, .alignBad, .formatBad, .geometryBad, .overlapBad]

/-- R130 to R133, R136: the check named by `code`, on an order of each kind. -/
def OrderFails : Order → Code → Prop
  | .unknown, .kindBad => True
  | .copy c, .alignBad => BaseOrPitchBad c.src ∨ BaseOrPitchBad c.dst
  | .fill f, .alignBad => BaseOrPitchBad f.dst
  | .stamp target _, .alignBad => target.toNat % 8 ≠ 0
  | .copy c, .formatBad =>
    (c.src.format ≠ 1 ∧ c.src.format ≠ 2) ∨ (c.dst.format ≠ 1 ∧ c.dst.format ≠ 2) ∨ 3 < c.rotation.toNat
  | .fill f, .formatBad => f.dst.format ≠ 1 ∧ f.dst.format ≠ 2
  | .fence condition _ _, .formatBad => condition ≠ 1 ∧ condition ≠ 2
  | .copy c, .geometryBad =>
    SurfaceBad c.src ∨ SurfaceBad c.dst ∨ RectBad (copySource c) c.src ∨ RectBad (copyTarget c) c.dst
  | .fill f, .geometryBad => SurfaceBad f.dst ∨ RectBad f.rect f.dst
  | .copy c, .overlapBad =>
    c.src.base = c.dst.base ∧ c.src.pitch = c.dst.pitch ∧
      (∃ x y, InRect x y (copySource c) ∧ InRect x y (copyTarget c)) ∧
      ¬(c.rotation = 0 ∧ c.mirror = false ∧ c.src.format = c.dst.format)
  | _, _ => False

/-! ### Frames -/

/-- The part's picture side stands as before: scene loader, scan timing unit, compositor and line fetch unit. -/
def KeepsPicture (s t : State) : Prop :=
  t.loader = s.loader ∧ t.scan = s.scan ∧ t.comp = s.comp ∧ t.fetch = s.fetch

/-- The fields of State that no block owns. -/
def KeepsRest (s t : State) : Prop :=
  t.resetHeld = s.resetHeld ∧ t.freeIdx = s.freeIdx ∧ t.pending = s.pending

/-- The paint engine's halting on a fault with nothing held (R123): HALTED, PAINT_HALTED raised, and one report. -/
def haltedBy (code : Code) (addr : Word) (s : State) : State :=
  { s with
    regs := { s.regs with events := s.regs.events ||| 0x200 }
    paint := { s.paint with engine := .halted }
    fault :=
      { s.fault with
        reports :=
          s.fault.reports ++ [{ source := .paint, code := code, slot := none, window := none, seq := 0, addr := addr }] } }

/-! ### The paint engine and the port -/

/-- R141: a fence condition as the rule words it: the value compared is not older than the fence's. -/
def FenceHolds (condition : Byte) (value : Word) (s : State) : Prop :=
  (condition = 1 ∧ s.loader.hasShown = true ∧ (s.loader.shownSeq - value).toNat < 2 ^ 31) ∨
    (condition ≠ 1 ∧ (s.scan.frameCounter - value).toNat < 2 ^ 31)

/-- The three responses that bring the engine one word of the chain, with the kind of burst each answers. -/
def wordResponses : List ((Nat → Response → Instr) × BurstKind) :=
  [(.headPointerReadResponse, .headPointer), (.linkReadResponse, .link), (.tailRereadResponse, .tail)]

/-- The four responses to what an order in RUNNING has read or written, with the kinds of burst each answers. -/
def runningResponses : List ((Nat → Response → Instr) × (BurstKind → Bool)) :=
  [(.activeWriteResponse, fun k => k == .active), (.copyReadResponse, BurstKind.isCopySrc),
   (.pixelWriteResponse, fun k => k == .pixel), (.stampWriteResponse, fun k => k == .stamp)]

/-- Every response of the table but ABANDONED_RESPONSE, with the kinds of burst it answers. -/
def allResponses : List ((Nat → Response → Instr) × (BurstKind → Bool)) :=
  [(.timingReadResponse, BurstKind.isTiming), (.descriptorReadResponse, BurstKind.isDescriptor),
   (.bodyBurstResponse, BurstKind.isBody), (.slotWriteResponse, BurstKind.isSlotWrite),
   (.spanBurstResponse, BurstKind.isSpan), (.headPointerReadResponse, fun k => k == .headPointer),
   (.orderHeadReadResponse, BurstKind.isOrderHead), (.remainderReadResponse, BurstKind.isRemainder),
   (.linkReadResponse, fun k => k == .link), (.tailRereadResponse, fun k => k == .tail),
   (.finalStatusWriteResponse, fun k => k == .final), (.statusWriterResponse, BurstKind.isStatus)] ++ runningResponses

/-- A waiting write of the engine: one presented, or one outstanding that a soft reset has not abandoned. -/
def WriteWaits (s : State) : Prop :=
  (∃ b ∈ s.port.paint, b.kind.isWrite = true) ∨
    ∃ pl, s.port.write = some pl ∧ pl.abandoned = false ∧ pl.burst.kind.requester = .paint

/-- A write of the engine is outstanding, and no soft reset has abandoned it. -/
def EngineWriteOut (s : State) : Prop :=
  ∃ pl, s.port.write = some pl ∧ pl.abandoned = false ∧ pl.burst.kind.requester = .paint

/-- A granted burst without the mark of a burst whose work has ended (log entry 21). -/
def Place.unmark (pl : Place) : Place :=
  { pl with burst := { pl.burst with dropped := false } }

/-- What has been granted stands as before, but for marks on the reads of other blocks than the paint engine (R162,
R163). -/
structure KeepsGranted (s u : State) : Prop where
  places : u.port.reads.map Place.unmark = s.port.reads.map Place.unmark
  reads : ∀ pl, pl.burst.kind.requester = .paint → (pl ∈ u.port.reads ↔ pl ∈ s.port.reads)
  write : u.port.write = s.port.write

/-- The paint engine stands as before, with the bursts it presents, its reads in flight and the outstanding write. -/
structure KeepsPaint (s u : State) : Prop where
  engine : u.paint = s.paint
  presented : u.port.paint = s.port.paint
  granted : KeepsGranted s u

/-- R121: in `u` a PAINT 0 has stopped the engine of `s`, whatever order it held. The mark of a read whose work has ended
is the model's (log entry 21). -/
structure PaintStopped (s u : State) : Prop where
  engine : u.paint = { s.paint with engine := .stopped, held := u.paint.held, reenable := false }
  places : u.port.reads.map Place.unmark = s.port.reads.map Place.unmark
  reads : ∀ pl ∈ u.port.reads, pl.burst.kind.requester = .paint → pl.burst.dropped = true
  write : u.port.write = s.port.write

/-- R121: what a PAINT 0 has made, in `u`, of the order that the engine of `s` held, in each phase, and of the engine's
bursts, of which only a final status write stays presented. -/
structure PaintCleared (s u : State) : Prop where
  stopped : PaintStopped s u
  idle : s.paint.held = none → u.paint.held = none ∧ u.port.paint = s.port.paint.filter fun b => b.kind == .final
  seen : ∀ h, s.paint.held = some h → h.phase = .seen →
    u.paint.held = none ∧ u.port.paint = s.port.paint.filter fun b => b.kind == .final
  ended : ∀ h, s.paint.held = some h → h.phase = .faulted ∨ h.phase = .closing →
    u.paint.held = some { h with oldWalk := true } ∧ u.port.paint = s.port.paint.filter fun b => b.kind == .final
  running : ∀ h, s.paint.held = some h → h.phase = .running → (∀ b ∈ s.port.paint, b.kind ≠ .final) →
    (EngineWriteOut s →
      u.paint.held = some { h with decided := some .aborted, oldWalk := true } ∧ u.port.paint = []) ∧
    (¬EngineWriteOut s →
      u.paint.held = some { h with decided := some .aborted, oldWalk := true, phase := .closing } ∧
        u.port.paint = [burstAt .final (h.addr.toNat + 4) 4 [6, 0, 0, 0]])

/-- R117: in `u` an engine that was AT_TAIL in `s` reads the tail again: the link of the order at the chain position, or
the head pointer at chain position 0. -/
def TailReread (s u : State) : Prop :=
  u.paint = { s.paint with engine := .loading } ∧
    u.port.paint =
      s.port.paint ++
        [burstAt .tail (if s.paint.chainPos = 0 then s.regs.dirBase.toNat + 0x18 else s.paint.chainPos.toNat) 4 []]

/-- R108, R115: `s` after the final status `f` of its held order `h` has been decided and its write issued. -/
def closingWith (f : FinalStatus) (h : Held) (s : State) : State :=
  { s with
    paint := { s.paint with engine := .executing, held := some { h with decided := some f, phase := .closing } }
    port :=
      { s.port with
        paint := s.port.paint ++ [burstAt .final (h.addr.toNat + 4) 4 [f.stateByte, f.code.toByte, 0, 0]] } }

/-- `s` after its held order has become `h` and the engine, in state `e`, has issued the bursts `bs`. -/
def heldIssues (e : EngineState) (h : Held) (bs : List Burst) (s : State) : State :=
  { s with
    paint := { s.paint with engine := e, held := some h }
    port := { s.port with paint := s.port.paint ++ bs } }

/-- R115, R121, R124: `s` after the final status `f`, decided before, of its held order `h` has been issued. -/
def finalIssued (f : FinalStatus) (h : Held) (s : State) : State :=
  { s with
    paint := { s.paint with held := some { h with phase := .closing } }
    port :=
      { s.port with
        paint := s.port.paint ++ [burstAt .final (h.addr.toNat + 4) 4 [f.stateByte, f.code.toByte, 0, 0]] } }

/-- R142, R143, R145: the waiting fence `h` of `s` has ended with `f` in `u`: the final status is written at once when no
write of it waits. -/
def FenceEnds (f : FinalStatus) (h : Held) (s u : State) : Prop :=
  u.paint = { s.paint with engine := .executing, held := u.paint.held } ∧
    (¬WriteWaits s →
      u.paint.held = some { h with decided := some f, phase := .closing } ∧
        u.port.paint = s.port.paint ++ [burstAt .final (h.addr.toNat + 4) 4 [f.stateByte, f.code.toByte, 0, 0]]) ∧
    (WriteWaits s → u.paint.held = some { h with decided := some f } ∧ u.port.paint = s.port.paint)

/-- R142: the test of the order `h`, held in `s`, at an event that leads to `u` and counts no latch point: a waiting fence
whose condition holds ends DONE, and one whose condition does not goes on waiting. -/
def FenceTested (h : Held) (s u : State) : Prop :=
  ∀ condition value timeout, s.paint.engine = .waiting → h.phase = .running → h.decided = none →
    h.order = .fence condition value timeout →
    (FenceHolds condition value u → FenceEnds .done h s u) ∧
      (¬FenceHolds condition value u → u.paint = s.paint ∧ u.port.paint = s.port.paint)

/-- R137, R138, R140: the order `h`, held in `s`, has been released in `u`: the engine is EXECUTING, and the reads or
writes of its row are all it has issued. -/
def RowBegun (h : Held) (s u : State) : Prop :=
  u.paint = { s.paint with engine := .executing, held := u.paint.held } ∧
    (∀ f, h.order = .fill f →
      u.paint.held = some h ∧
        u.port.paint = s.port.paint ++ rowWrites f.dst f.rect.x (f.rect.y + h.row) f.rowBytes) ∧
    ∀ c, h.order = .copy c →
      u.port.paint = s.port.paint ++ c.rowReads (c.rowIndex h.row) ∧
        ∃ src : List Byte,
          src.length = (if c.rotation = 1 ∨ c.rotation = 3 then c.h else c.w) * formatBytes c.src.format ∧
            u.paint.held = some { h with src := src, srcLeft := (c.rowReads (c.rowIndex h.row)).length }

/-- R140: what the test of a HELD order `h` of `s` against the in-view table of `u` does. -/
def HoldTested (h : Held) (s u : State) : Prop :=
  (h.order.inView u.loader.inView = false → RowBegun h s u) ∧
    (h.order.inView u.loader.inView = true → u.paint = s.paint ∧ u.port.paint = s.port.paint)

/-- The port `p` with `q` presenting `b` in place of what it presents. -/
def presenting (q : Requester) (b : Burst) (p : Port) : Port :=
  match q with
  | .fetch => { p with fetch := b :: p.fetch.tail }
  | .loader => { p with loader := b :: p.loader.tail }
  | .status => { p with status := b :: p.status.tail }
  | .paint => { p with paint := b :: p.paint.tail }

/-- The requesters of higher priority than `q` (R162). -/
def outranks : Requester → List Requester
  | .fetch => []
  | .loader => [.fetch]
  | .status => [.fetch, .loader]
  | .paint => [.fetch, .loader, .status]

/-- R162: the requester `q` presents nothing, or a burst that cannot be granted now. -/
def Blocked (p : Port) (q : Requester) : Prop :=
  ∀ b, p.presented q = some b →
    (b.kind.isWrite = true → p.write ≠ none) ∧ (b.kind.isWrite = false → 8 ≤ p.reads.length)

end Sys2Proof.Machine
end

