-- ==== Sys2Proof/Certificates/Slice0/Obligations.lean ====
section
/-! DEFINITION. The statements about the part, for the provers. -/

open Sys2Proof Sys2Proof.Machine

/-! ### The queue -/

/-- A step runs the front command on the state with the queue's rest. The queue is the model's own. -/
def Obligations.StepRunsTheFrontCommand : Prop :=
  ∀ (c : Instr) (q : List Instr) (s : State), s.pending = c :: q → step s = exec c (s.withQueue q)

/-- On an empty queue a pixel period of the line being sent passes, up to the line's last one, and while no frame is sent
nothing changes (the model's choice, log entry 5). -/
def Obligations.EmptyQueueIsOnePixelPeriod : Prop :=
  ∀ s : State, s.pending = [] →
    (∀ t lp, s.resetHeld = false → s.scan.output.sends = true → s.scan.timing = some t → s.scan.line = some lp →
      lp.period + 1 < t.b + t.w →
      step s = .next { s with scan := { s.scan with line := some { lp with period := lp.period + 1 } } }) ∧
    (∀ t lp, s.scan.timing = some t → s.scan.line = some lp → t.b + t.w ≤ lp.period + 1 → step s = .next s) ∧
    (s.resetHeld = true ∨ s.scan.output.sends = false → step s = .next s)

/-- Every command answers a next state, and leaves the queue of waiting commands alone. That no command stops the
part, one that is not due included, is the model's choice (log entry 2). -/
def Obligations.EveryCommandAnswersANextState : Prop :=
  ∀ (c : Instr) (s : State), ∃ u, exec c s = .next u ∧ u.pending = s.pending

/-! ### The register window -/

/-- What a host read of each offset returns (R172, R173), field by field: the values of each field (section 10.1), and
that every bit the section does not list reads 0, as bits 5:0 of DIR_BASE do. -/
def Obligations.RegisterReads : Prop :=
  [OutputState.off, .locking, .parked, .running, .parking].map OutputState.toNat = [0, 1, 2, 3, 4] ∧
  [EngineState.stopped, .loading, .executing, .held, .waiting, .atTail, .halted].map EngineState.toNat =
    [0, 1, 2, 3, 4, 5, 6] ∧
  [OutputTarget.off, .park, .run].map OutputTarget.toNat = [0, 1, 2] ∧
  ∀ s : State,
    (s.resetHeld = true → ∀ o, readReg o s = 0) ∧
    (s.resetHeld = false →
      readReg 0x00 s = 0x6A160001 ∧ readReg 0x04 s = s.regs.dirBase ∧ readReg 0x0C s = 0 ∧
      (∀ o : Word, 0x1C ≤ o.toNat → readReg o s = 0) ∧
      (RegsWf s → (readReg 0x04 s).extractLsb' 0 6 = 0) ∧
      (readReg 0x08 s).extractLsb' 0 2 = BitVec.ofNat 2 s.regs.runOutput.toNat ∧
      (readReg 0x08 s).getLsbD 4 = s.regs.runPaint ∧
      (readReg 0x08 s).getLsbD 8 = (s.regs.runMode == .continue) ∧
      (∀ i, (2 ≤ i ∧ i ≤ 3) ∨ (5 ≤ i ∧ i ≤ 7) ∨ 9 ≤ i → (readReg 0x08 s).getLsbD i = false) ∧
      (readReg 0x10 s).extractLsb' 0 12 = s.regs.events ∧ (readReg 0x10 s).extractLsb' 12 20 = 0 ∧
      (readReg 0x14 s).extractLsb' 0 12 = s.regs.enable ∧ (readReg 0x14 s).extractLsb' 12 20 = 0 ∧
      (readReg 0x18 s).extractLsb' 0 3 = BitVec.ofNat 3 s.scan.output.toNat ∧
      (readReg 0x18 s).extractLsb' 4 3 = BitVec.ofNat 3 s.paint.engine.toNat ∧
      (readReg 0x18 s).getLsbD 8 = s.fault.latch ∧ (readReg 0x18 s).getLsbD 12 = s.loader.staged.isSome ∧
      (readReg 0x18 s).extractLsb' 16 8 = (match s.loader.shownSlot with | some n => BitVec.ofNat 8 n.val | none => 0xFF) ∧
      ∀ i, i = 3 ∨ i = 7 ∨ (9 ≤ i ∧ i ≤ 11) ∨ (13 ≤ i ∧ i ≤ 15) ∨ 24 ≤ i → (readReg 0x18 s).getLsbD i = false)

/-- DIR_BASE takes an aligned value while the output is OFF and the engine STOPPED; any other write of it is refused. -/
def Obligations.DirBaseWriteResult : Prop :=
  ∀ (v : Word) (s : State), s.resetHeld = false →
    (s.scan.output = .off → s.paint.engine = .stopped → v.extractLsb' 0 6 = 0 →
      exec (.dirBaseWrite v) s = .next { s with regs := { s.regs with dirBase := v } }) ∧
    (s.scan.output ≠ .off ∨ s.paint.engine ≠ .stopped ∨ v.extractLsb' 0 6 ≠ 0 →
      exec (.dirBaseWrite v) s = .next (refused s))

/-- A RUN write is refused whole when OUTPUT is 3, and when it asks for PARK, RUN or PAINT while DIR_BASE is 0. -/
def Obligations.RunWriteRefusals : Prop :=
  ∀ (v : Word) (s : State), s.resetHeld = false →
    (v.extractLsb' 0 2 = 3 →
      exec (.paintSet v) s = .next (refused s) ∧ exec (.paintClear v) s = .next (refused s) ∧
        exec (.faultModeWrite v) s = .next (refused s)) ∧
    (s.regs.dirBase = 0 →
      exec (.outputPark v) s = .next (refused s) ∧ exec (.outputRun v) s = .next (refused s) ∧
      exec (.paintSet v) s = .next (refused s) ∧
      (v.getLsbD 4 = true → exec (.outputOff v) s = .next (refused s) ∧ exec (.faultModeWrite v) s = .next (refused s)) ∧
      (v.extractLsb' 0 2 ≠ 0 →
        exec (.paintClear v) s = .next (refused s) ∧ exec (.faultModeWrite v) s = .next (refused s)))

/-- Which bits of a value written to RUN are its OUTPUT and FAULT_MODE fields; that every accepted RUN write replaces the
three fields of RUN together; and that the six commands that write RUN are one write of its value. -/
def Obligations.AcceptedRunWriteReplacesAllThreeFields : Prop :=
  (∀ v : Word,
    (runOutputField v = some .off ↔ v.extractLsb' 0 2 = 0) ∧ (runOutputField v = some .park ↔ v.extractLsb' 0 2 = 1) ∧
      (runOutputField v = some .run ↔ v.extractLsb' 0 2 = 2) ∧ (runOutputField v = none ↔ v.extractLsb' 0 2 = 3) ∧
      (runModeField v = .continue ↔ v.getLsbD 8 = true)) ∧
  (∀ (v : Word) (s : State),
    (runOutputField v = some .off → exec (.outputOff v) s = exec (.faultModeWrite v) s) ∧
      (runOutputField v = some .park → exec (.outputPark v) s = exec (.faultModeWrite v) s) ∧
      (runOutputField v = some .run → exec (.outputRun v) s = exec (.faultModeWrite v) s) ∧
      (v.getLsbD 4 = true → exec (.paintSet v) s = exec (.faultModeWrite v) s) ∧
      (v.getLsbD 4 = false → exec (.paintClear v) s = exec (.faultModeWrite v) s)) ∧
  ∀ (v : Word) (t : OutputTarget) (s : State), s.resetHeld = false →
    (RunAllowed .off (v.getLsbD 4) s →
      ∃ u, exec (.outputOff v) s = .next u ∧ RunHolds .off (v.getLsbD 4) (runModeField v) s u) ∧
    (RunAllowed .park (v.getLsbD 4) s →
      ∃ u, exec (.outputPark v) s = .next u ∧ RunHolds .park (v.getLsbD 4) (runModeField v) s u) ∧
    (RunAllowed .run (v.getLsbD 4) s →
      ∃ u, exec (.outputRun v) s = .next u ∧ RunHolds .run (v.getLsbD 4) (runModeField v) s u) ∧
    (runOutputField v = some t → RunAllowed t true s →
      ∃ u, exec (.paintSet v) s = .next u ∧ RunHolds t true (runModeField v) s u) ∧
    (runOutputField v = some t → RunAllowed t false s →
      ∃ u, exec (.paintClear v) s = .next u ∧ RunHolds t false (runModeField v) s u) ∧
    (runOutputField v = some t → RunAllowed t (v.getLsbD 4) s →
      ∃ u, exec (.faultModeWrite v) s = .next u ∧ RunHolds t (v.getLsbD 4) (runModeField v) s u)

/-- A RUN write whose OUTPUT and PAINT find their blocks where they ask them to be sets the fault mode and the fields of
RUN, and nothing else of the part changes (`freeIdx` is the model's own, log entry 3). -/
def Obligations.FaultModeWriteChangesNoBlock : Prop :=
  ∀ (v : Word) (t : OutputTarget) (s : State), s.resetHeld = false → runOutputField v = some t →
    RunAllowed t (v.getLsbD 4) s → idleRequest t s.scan.output = true →
    (v.getLsbD 4 = true ↔ s.paint.engine ≠ .stopped) →
    exec (.faultModeWrite v) s =
      .next
        { s with
          regs := { s.regs with runOutput := t, runPaint := v.getLsbD 4, runMode := runModeField v }
          freeIdx := s.freeIdx + 1 }

/-- A PARK request in each output state (R54, R58, R59), whatever the write's PAINT field does to the engine; where that
field is no request either, the paint engine stands (R127, R175). No fetch is disturbed, no burst of another block than
the paint engine changes, but for the timing read of an abandoned entry to LOCKING, and every other block stands; that
this read is marked to be discarded is the model's reading (log entry 13). The status block is asked for with the change
of the output state, and with the chain position that a PAINT 1 clears, and by nothing else (R54, R111). -/
def Obligations.ParkRequestResult : Prop :=
  ∀ (v : Word) (s : State), s.resetHeld = false → s.regs.dirBase ≠ 0 →
    ∃ u, exec (.outputPark v) s = .next u ∧
      u =
        { s with
          regs := u.regs, scan := u.scan, paint := u.paint, writer := u.writer, freeIdx := u.freeIdx
          port := { s.port with loader := u.port.loader, reads := u.port.reads, paint := u.port.paint } } ∧
      u.port.reads.map Place.unmark = s.port.reads.map Place.unmark ∧
      (s.scan.output ≠ .locking →
        u.port.loader = s.port.loader ∧
          ∀ pl, pl.burst.kind.requester ≠ .paint → (pl ∈ u.port.reads ↔ pl ∈ s.port.reads)) ∧
      (s.scan.output = .off → u.scan = { s.scan with output := .parked }) ∧
      (s.scan.output = .locking →
        u.scan = { s.scan with output := .parked, origin := none, lockPhase := none, timerOn := false } ∧
          u.port.loader =
            s.port.loader.map (fun b => if b.kind = .timing then { b with dropped := true } else b) ∧
          (∀ pl ∈ u.port.reads, pl.burst.kind = .timing → pl.burst.dropped = true) ∧
          ∀ pl, pl.burst.kind.requester ≠ .paint → pl.burst.kind ≠ .timing → (pl ∈ u.port.reads ↔ pl ∈ s.port.reads)) ∧
      (s.scan.output = .running → u.scan = { s.scan with output := .parking }) ∧
      (s.scan.output = .parked ∨ s.scan.output = .parking → u.scan = s.scan) ∧
      (u.regs.events =
        if s.scan.output = .off ∨ s.scan.output = .locking then s.regs.events ||| 0x040 else s.regs.events) ∧
      u.writer =
        (if u.scan.output ≠ s.scan.output ∨
            v.getLsbD 4 = true ∧ s.paint.engine = .stopped ∧ s.paint.chainPos ≠ 0 then
          { s.writer with wantBlock := true }
        else s.writer) ∧
      ((v.getLsbD 4 = true ↔ s.paint.engine ≠ .stopped) → KeepsPaint s u)

/-- A RUN request in each output state (R54, R55, R61), whatever the write's PAINT field does to the engine; where that
field is no request either, the paint engine stands (R127, R175). The timing read of an entry to LOCKING stands behind
the burst the loader's place presents and ahead of every other one (R160); that it is ahead of the read of an abandoned
entry too is the model's choice (log entry 33). No fetch in flight is disturbed, no other burst of another block than
the paint engine changes, and every other block stands. The status block is asked for as by a PARK request. -/
def Obligations.RunRequestResult : Prop :=
  ∀ (v : Word) (s : State), s.resetHeld = false → s.regs.dirBase ≠ 0 →
    ∃ u, exec (.outputRun v) s = .next u ∧
      u =
        { s with
          regs := u.regs, scan := u.scan, paint := u.paint, writer := u.writer, freeIdx := u.freeIdx
          port := { s.port with loader := u.port.loader, reads := u.port.reads, paint := u.port.paint } } ∧
      u.regs.events = s.regs.events ∧ u.port.reads.map Place.unmark = s.port.reads.map Place.unmark ∧
      (∀ pl, pl.burst.kind.requester ≠ .paint → (pl ∈ u.port.reads ↔ pl ∈ s.port.reads)) ∧
      (s.scan.output = .off →
        u.scan =
          { s.scan with output := .locking, origin := some .off, lockPhase := some .reading, timerOn := false }) ∧
      (s.scan.output = .parked →
        u.scan =
          { s.scan with output := .locking, origin := some .parked, lockPhase := some .reading, timerOn := false }) ∧
      (s.scan.output = .off ∨ s.scan.output = .parked →
        (s.port.loader = [] → u.port.loader = [burstAt .timing s.regs.dirBase.toNat 24 []]) ∧
          ∀ c cs, s.port.loader = c :: cs → u.port.loader = c :: burstAt .timing s.regs.dirBase.toNat 24 [] :: cs) ∧
      (s.scan.output = .parking → u.scan = { s.scan with output := .running } ∧ u.port.loader = s.port.loader) ∧
      (s.scan.output = .locking ∨ s.scan.output = .running → u.scan = s.scan ∧ u.port.loader = s.port.loader) ∧
      u.writer =
        (if u.scan.output ≠ s.scan.output ∨
            v.getLsbD 4 = true ∧ s.paint.engine = .stopped ∧ s.paint.chainPos ≠ 0 then
          { s.writer with wantBlock := true }
        else s.writer) ∧
      ((v.getLsbD 4 = true ↔ s.paint.engine ≠ .stopped) → KeepsPaint s u)

/-- The entry to OFF in every block but the paint engine (R63, R64, R26, R91, R106), whatever the write's PAINT field
does to the engine. Every granted read of the ended load, timing read and fetch is marked to be discarded. The RETIRED
write, made for the shown sequence, stands behind the slot writes that wait, each of which keeps its own mark. The status
block is asked for with the issue of a write that is so marked, at once with no slot shown, and with the chain position
that a PAINT 1 clears (R111), and by nothing else. That the shown min-frames and background colour stand, that the ended
fetch leaves nothing presented, which write asks for the block, and that an abandoned entry's timing read and a read of a
load already ended by a bus error go too, are the model's reading (log entries 21, 24, 25, 32 and 35). -/
def Obligations.OffRequestResult : Prop :=
  ∀ (v : Word) (s : State), s.resetHeld = false → RunAllowed .off (v.getLsbD 4) s → s.scan.output ≠ .off →
    ∃ u, exec (.outputOff v) s = .next u ∧
      u =
        { s with
          regs := u.regs, scan := u.scan, loader := u.loader, comp := u.comp, fetch := u.fetch, paint := u.paint,
          writer := u.writer, freeIdx := u.freeIdx
          port := { s.port with fetch := [], loader := u.port.loader, reads := u.port.reads, paint := u.port.paint } } ∧
      u.port.status = s.port.status ∧ u.port.write = s.port.write ∧
      u.scan =
        { s.scan with
          output := .off, origin := none, lockPhase := none, line := none, mark := none, fmk := false, timerOn := false } ∧
      u.loader =
        { s.loader with
          phase := .idle, candidate := none, descs := Vector.replicate 4 none, descLeft := 0, skip := [], image := [],
          bodyLeft := 0, staged := none, stagedTable := [], shownTable := [], shownSlot := none, framesShown := 0,
          inView := [] } ∧
      (∀ l,
        l =
            (s.port.loader.filter fun b => !b.kind.isLoaderRead) ++
              s.loader.shownSlot.toList.map (fun n =>
                burstAt (.slotWrite n s.loader.shownSeq true) (s.regs.dirBase.toNat + 0x20 + 32 * n.val) 4
                  [3, 0, 0, 0]) →
          u.port.loader = firstIssued l ∧
            u.writer =
              if s.loader.shownSlot = none ∨ l.head?.any Burst.asks ∨
                  v.getLsbD 4 = true ∧ s.paint.engine = .stopped ∧ s.paint.chainPos ≠ 0 then
                { s.writer with wantBlock := true }
              else s.writer) ∧
      u.comp = { current := [], coming := [], offsets := [], flags := Vector.replicate 16 false } ∧
      u.fetch = { active := none, filling := [], reading := [], underruns := s.fetch.underruns } ∧
      u.regs.events = s.regs.events ∧
      u.port.reads.map Place.unmark = s.port.reads.map Place.unmark ∧
      ∀ pl ∈ u.port.reads, pl.burst.kind.isLoaderRead = true ∨ pl.burst.kind.isSpan = true → pl.burst.dropped = true

/-- The entry to OFF in the paint engine (R64, R127). It changes nothing of the engine in any state but WAITING, where it
ends the fence with NO_OUTPUT, and HELD, where it releases the order, whose first row begins without a second ACTIVE
write (R143, R140); in HALTED too (R126). RUN PAINT keeps the value written. With PAINT 0 in the same write the engine is
STOPPED as by any PAINT 0 (R121, R175), and an order that waits or is held is ABORTED, or NO_OUTPUT when the fence's end
is taken first. It holds for either order in which the two fields of one write are taken, a free value of the model (log
entry 3). That a row is begun whole, and the order of a turned COPY's reads, are the model's choice (log entry 16). -/
def Obligations.OffRequestReleasesThePaintEngine : Prop :=
  ∀ (v : Word) (s : State), s.resetHeld = false → s.scan.output ≠ .off →
    (RunAllowed .off true s → v.getLsbD 4 = true → s.paint.engine ≠ .stopped →
      ∃ u, exec (.outputOff v) s = .next u ∧ u.regs.runPaint = true ∧ KeepsGranted s u ∧
        (s.paint.engine ≠ .waiting → s.paint.engine ≠ .held → KeepsPaint s u) ∧
        ∀ h, s.paint.held = some h → h.phase = .running →
          (s.paint.engine = .waiting → FenceEnds .noOutput h s u) ∧ (s.paint.engine = .held → RowBegun h s u)) ∧
    (RunAllowed .off false s → v.getLsbD 4 = false →
      ∃ u, exec (.outputOff v) s = .next u ∧ u.regs.runPaint = false ∧
        (s.paint.engine = .stopped → KeepsPaint s u) ∧ (s.paint.engine ≠ .stopped → PaintStopped s u) ∧
        (s.paint.engine ≠ .stopped → s.paint.engine ≠ .waiting → s.paint.engine ≠ .held → PaintCleared s u) ∧
        ∀ h, s.paint.held = some h → h.phase = .running → s.paint.engine ≠ .stopped →
          ∃ h', u.paint.held = some h' ∧
            h' =
              { h with
                phase := h'.phase, decided := h'.decided, oldWalk := true, src := h'.src, srcLeft := h'.srcLeft } ∧
            (h'.decided = some .aborted ∨ s.paint.engine = .waiting ∧ h'.decided = some .noOutput) ∧
            ((∀ b ∈ s.port.paint, b.kind ≠ .final) →
              (EngineWriteOut s → h'.phase = .running ∧ u.port.paint = []) ∧
                (¬EngineWriteOut s →
                  h'.phase = .closing ∧
                    u.port.paint =
                      [burstAt .final (h.addr.toNat + 4) 4
                        [if h'.decided = some .noOutput then 8 else 6, 0, 0, 0]])))

/-- PAINT 1 taken in STOPPED starts a walk (R112, R122), whatever the write's OUTPUT field does to the output. Where that
field is no request in the output state it finds, nothing else of the part changes, and a status block is asked for only
when the chain position was not 0 (R111). -/
def Obligations.PaintSetResult : Prop :=
  ∀ (v : Word) (t : OutputTarget) (s : State), s.resetHeld = false → runOutputField v = some t →
    s.regs.dirBase ≠ 0 → s.paint.engine = .stopped →
    ∃ u, exec (.paintSet v) s = .next u ∧ u.regs.runPaint = true ∧ KeepsGranted s u ∧
      (s.paint.held = none →
        u.paint = { s.paint with engine := .loading, chainPos := 0, passedOver := 0 } ∧
          u.port.paint = s.port.paint ++ [burstAt .headPointer (s.regs.dirBase.toNat + 0x18) 4 []]) ∧
      (s.paint.held ≠ none →
        u.paint = { s.paint with engine := .loading, chainPos := 0, passedOver := 0, reenable := true } ∧
          u.port.paint = s.port.paint) ∧
      (s.paint.chainPos ≠ 0 → u.writer.wantBlock = true) ∧
      (idleRequest t s.scan.output = true →
        u =
            { s with
              regs := { s.regs with runOutput := t, runPaint := true, runMode := runModeField v }
              paint := u.paint, writer := u.writer, freeIdx := u.freeIdx
              port := { s.port with paint := u.port.paint } } ∧
          (s.paint.chainPos = 0 → u.writer = s.writer) ∧
          (s.paint.chainPos ≠ 0 → u.writer = { s.writer with wantBlock := true }))

/-- PAINT 0 taken in any other state makes the engine STOPPED at once (R121): what becomes of the held order and of the
engine's bursts. It holds whatever the write's OUTPUT field asks for, but for an OFF taken in WAITING or HELD (that one
is OffRequestReleasesThePaintEngine's). Where that field is no request in the output state it finds, nothing else of the
part changes. The mark of a read whose work has ended is the model's (log entry 21). -/
def Obligations.PaintClearResult : Prop :=
  ∀ (v : Word) (t : OutputTarget) (s : State), s.resetHeld = false → runOutputField v = some t →
    RunAllowed t false s → s.paint.engine ≠ .stopped →
    (t = .off → s.scan.output ≠ .off → s.paint.engine ≠ .waiting ∧ s.paint.engine ≠ .held) →
    ∃ u, exec (.paintClear v) s = .next u ∧ u.regs.runPaint = false ∧ PaintCleared s u ∧ u.fault = s.fault ∧
      (idleRequest t s.scan.output = true →
        u.port.reads =
            s.port.reads.map (fun pl =>
              if pl.burst.kind.requester = .paint then { pl with burst := { pl.burst with dropped := true } } else pl) ∧
          u =
            { s with
              regs := { s.regs with runOutput := t, runPaint := false, runMode := runModeField v }
              paint := u.paint, freeIdx := u.freeIdx
              port := { s.port with reads := u.port.reads, paint := u.port.paint } })

/-- NUDGE and CLEAR_FAULT in every state (R177). -/
def Obligations.NudgeAndClearFaultResult : Prop :=
  ∀ s : State, s.resetHeld = false →
    (s.paint.engine = .atTail →
      exec .nudge s =
        .next
          { s with
            paint := { s.paint with engine := .loading }
            port :=
              { s.port with
                paint :=
                  s.port.paint ++
                    [burstAt .tail
                      (if s.paint.chainPos = 0 then s.regs.dirBase.toNat + 0x18 else s.paint.chainPos.toNat) 4 []] } }) ∧
    (s.paint.engine ≠ .atTail → exec .nudge s = .next s) ∧
    (s.fault.latch = true →
      exec .clearFault s =
        .next
          { s with
            fault := { s.fault with latch := false, later := 0, record := { s.fault.record with code := .none } }
            writer := { s.writer with wantBlock := true, wantRecord := true } }) ∧
    (s.fault.latch = false → exec .clearFault s = .next s)

/-- RESUME continues a HALTED walk from its chain position, and is refused in every other state (R178, R126). -/
def Obligations.ResumeResult : Prop :=
  ∀ s : State, s.resetHeld = false →
    (s.paint.engine = .halted →
      exec .resume s =
        .next
          { s with
            paint := { s.paint with engine := .loading, passedOver := 0 }
            port :=
              { s.port with
                paint :=
                  s.port.paint ++
                    [burstAt .tail
                      (if s.paint.chainPos = 0 then s.regs.dirBase.toNat + 0x18 else s.paint.chainPos.toNat) 4 []] } }) ∧
    (s.paint.engine ≠ .halted → exec .resume s = .next (refused s))

/-- SOFT_RESET in any state: the reset values of every block, DIR_BASE and EVENT_ENABLE kept, the port's outstanding
places kept and abandoned (R179, R169), field by field. That the reports not yet taken and the fields that keep a load or
a read in progress are emptied, and that the count of power-on resets stands, are the model's choice (log entries 14 and
8). -/
def Obligations.SoftResetResult : Prop :=
  ∀ s : State, s.resetHeld = false →
    ∃ u, exec .softReset s = .next u ∧ readReg 0x18 u = 0x00FF0000 ∧ readReg 0x08 u = 0 ∧ irqN u = true ∧
      u.regs =
        { dirBase := s.regs.dirBase, runOutput := .off, runPaint := false, runMode := .stop, events := 0,
          enable := s.regs.enable } ∧
      u.scan =
        { output := .off, origin := none, lockPhase := none, timing := none, line := none, frameCounter := 0, mark := none,
          fmk := false, timerOn := false } ∧
      u.loader =
        { phase := .idle, candidate := none, descs := Vector.replicate 4 none, descLeft := 0, skip := [], image := [],
          bodyLeft := 0, shownSlot := none, shownSeq := 0, hasShown := false, shownMin := 1, shownBg := ⟨0, 0, 0⟩,
          framesShown := 0, staged := none, shownTable := [], stagedTable := [], inView := [] } ∧
      u.comp = { current := [], coming := [], offsets := [], flags := Vector.replicate 16 false } ∧
      u.fetch = { active := none, filling := [], reading := [], underruns := 0 } ∧
      u.paint =
        { engine := .stopped, held := none, chainPos := 0, passedOver := 0, fenceCount := 0, reenable := false, buf := [],
          bufLeft := 0, bufErr := none } ∧
      u.fault =
        { latch := false,
          record := { code := .none, source := none, slot := none, window := none, seq := 0, addr := 0, frame := 0 },
          later := 0, reports := [] } ∧
      u.writer = { update := 0, wantBlock := false, wantRecord := false, wantCount := false, busy := false } ∧
      u.port.fetch = [] ∧ u.port.loader = [] ∧ u.port.status = [] ∧ u.port.paint = [] ∧
      u.port.reads = s.port.reads.map (fun pl => { pl with abandoned := true }) ∧
      u.port.write = s.port.write.map (fun pl => { pl with abandoned := true }) ∧ u.port.epoch = s.port.epoch

/-- RESET_N asserted and released (R180, R170): the power-on reset values, no outstanding place, and until the release
every other command is ignored. That the fields that keep a load, a read or a report in progress are emptied while the
tag count goes up by one, and that `freeIdx` and the queue of commands stand, are the model's choice (log entries 8, 14
and 20). -/
def Obligations.PowerOnResetAndRelease : Prop :=
  ∀ s : State,
    exec .powerOnReset s =
        .next
          { regs := { dirBase := 0, runOutput := .off, runPaint := false, runMode := .stop, events := 0, enable := 0 }
            loader :=
              { phase := .idle, candidate := none, descs := Vector.replicate 4 none, descLeft := 0, skip := [], image := [],
                bodyLeft := 0, shownSlot := none, shownSeq := 0, hasShown := false, shownMin := 1, shownBg := ⟨0, 0, 0⟩,
                framesShown := 0, staged := none, shownTable := [], stagedTable := [], inView := [] }
            scan :=
              { output := .off, origin := none, lockPhase := none, timing := none, line := none, frameCounter := 0,
                mark := none, fmk := false, timerOn := false }
            comp := { current := [], coming := [], offsets := [], flags := Vector.replicate 16 false }
            fetch := { active := none, filling := [], reading := [], underruns := 0 }
            paint :=
              { engine := .stopped, held := none, chainPos := 0, passedOver := 0, fenceCount := 0, reenable := false,
                buf := [], bufLeft := 0, bufErr := none }
            fault :=
              { latch := false,
                record := { code := .none, source := none, slot := none, window := none, seq := 0, addr := 0, frame := 0 },
                later := 0, reports := [] }
            writer := { update := 0, wantBlock := false, wantRecord := false, wantCount := false, busy := false }
            port :=
              { fetch := [], loader := [], status := [], paint := [], reads := [], write := none,
                epoch := s.port.epoch + 1 }
            resetHeld := true, freeIdx := s.freeIdx, pending := s.pending } ∧
      exec .resetNRelease s = .next { s with resetHeld := false } ∧
      (s.resetHeld = true → ∀ c, c ≠ .powerOnReset → c ≠ .resetNRelease → exec c s = .next s)

/-- Every field of the state right after reset, the registers and lines as section 10.6 lists them, and the blocks'
records well formed. The values of the fields that keep a load, a read or a report in progress, and of the model's own
(the tag count, `freeIdx` and the queue), are its choice (log entry 14). -/
def Obligations.ResetValuesAreWellFormed : Prop :=
  State.reset =
    { regs := { dirBase := 0, runOutput := .off, runPaint := false, runMode := .stop, events := 0, enable := 0 }
      loader :=
        { phase := .idle, candidate := none, descs := Vector.replicate 4 none, descLeft := 0, skip := [], image := [],
          bodyLeft := 0, shownSlot := none, shownSeq := 0, hasShown := false, shownMin := 1, shownBg := ⟨0, 0, 0⟩,
          framesShown := 0, staged := none, shownTable := [], stagedTable := [], inView := [] }
      scan :=
        { output := .off, origin := none, lockPhase := none, timing := none, line := none, frameCounter := 0,
          mark := none, fmk := false, timerOn := false }
      comp := { current := [], coming := [], offsets := [], flags := Vector.replicate 16 false }
      fetch := { active := none, filling := [], reading := [], underruns := 0 }
      paint :=
        { engine := .stopped, held := none, chainPos := 0, passedOver := 0, fenceCount := 0, reenable := false,
          buf := [], bufLeft := 0, bufErr := none }
      fault :=
        { latch := false,
          record := { code := .none, source := none, slot := none, window := none, seq := 0, addr := 0, frame := 0 },
          later := 0, reports := [] }
      writer := { update := 0, wantBlock := false, wantRecord := false, wantCount := false, busy := false }
      port := { fetch := [], loader := [], status := [], paint := [], reads := [], write := none, epoch := 0 }
      resetHeld := false, freeIdx := 0, pending := [] } ∧
  readReg 0x00 State.reset = 0x6A160001 ∧ readReg 0x04 State.reset = 0 ∧ readReg 0x08 State.reset = 0 ∧
    readReg 0x10 State.reset = 0 ∧ readReg 0x14 State.reset = 0 ∧ readReg 0x18 State.reset = 0x00FF0000 ∧
    irqN State.reset = true ∧
    panelPins State.reset = { pclkRuns := false, hsync := false, vsync := false, de := false, data := 0 } ∧
    State.reset.scan.fmk = false ∧ PortWf State.reset.port ∧ FaultWf State.reset.fault ∧ LoaderWf State.reset.loader ∧
    LoadWf State.reset ∧ ScanWf State.reset.scan ∧ RegsWf State.reset

/-- Event flags (R157), each at its bit (section 8.5): raising sets the flag; a write to EVENTS clears the flags written
as one and leaves the others; bits 12 to 31 have no effect and read 0; enables play no part; and a flag stays set
through every command but such a write and a reset. -/
def Obligations.EventFlagsStayUntilCleared : Prop :=
  [Event.sceneTaken, .sceneRejected, .frameMark, .underrun, .fetchFault, .locked, .parked, .outputStopped, .paintNotify,
    .paintHalted, .errorLatched, .configRefused].map Event.bit = List.range 12 ∧
  (∀ (e : Event) (r : Regs),
    r.isPending e = r.events.getLsbD e.bit ∧ r.raise e = { r with events := (r.raise e).events }) ∧
  (∀ (e f : Event) (r : Regs), (r.raise e).isPending f = (r.isPending f || e == f)) ∧
  (∀ (v : Word) (s : State), s.resetHeld = false →
    ∃ u, exec (.eventsWrite v) s = .next u ∧ u = { s with regs := { s.regs with events := u.regs.events } } ∧
      (∀ e : Event, u.regs.isPending e = (s.regs.isPending e && !v.getLsbD e.bit)) ∧
      (readReg 0x10 u).extractLsb' 12 20 = 0) ∧
  (∀ (c : Instr) (s u : State) (e : Event), c.wellFormed = true → (∀ v, c ≠ .eventsWrite v) → c.isReset = false →
    exec c s = .next u → s.regs.isPending e = true → u.regs.isPending e = true) ∧
  (∀ s : State,
    (∃ u, exec .powerOnReset s = .next u ∧ u.regs.events = 0) ∧
      (s.resetHeld = false → ∃ u, exec .softReset s = .next u ∧ u.regs.events = 0))

/-- EVENT_ENABLE and IRQ_N (R158): the line is low exactly while some event is pending and enabled. -/
def Obligations.IrqFollowsPendingAndEnabled : Prop :=
  (∀ s : State, irqN s = false ↔ ∃ e : Event, s.regs.isPending e = true ∧ s.regs.enable.getLsbD e.bit = true) ∧
  (∀ (e : Event) (s : State), irqN s = false → irqN (raise e s) = false) ∧
  (∀ (v : Word) (s : State), s.resetHeld = false →
    ∃ u, exec (.eventEnableWrite v) s = .next u ∧ u = { s with regs := { s.regs with enable := u.regs.enable } } ∧
      (∀ e : Event, u.regs.enable.getLsbD e.bit = v.getLsbD e.bit) ∧ (readReg 0x14 u).extractLsb' 12 20 = 0 ∧
      (irqN u = false ↔ ∃ e : Event, s.regs.isPending e = true ∧ v.getLsbD e.bit = true))

/-- The remaining writes (R172, R176): IDENT, STATE and offsets from 0x1C upward are ignored; an unknown action code is
refused. -/
def Obligations.OtherRegisterWrites : Prop :=
  ∀ (o v : Word) (s : State), s.resetHeld = false →
    (o = 0x00 ∨ o = 0x18 ∨ 0x1C ≤ o.toNat → exec (.registerWriteOther o v) s = .next s) ∧
    (v = 0 ∨ 5 ≤ v.toNat → exec (.registerWriteOther 0x0C v) s = .next (refused s))

/-! ### Frames and output states -/

/-- The timing record (R51): how a field of shared memory is read and written (R182), which bytes of the record give each
of its fields, which records are legal, what a legal one does, and how an illegal one fails the entry. -/
def Obligations.TimingRecordResult : Prop :=
  (∀ l : List Byte, (∀ o, FieldRule l o) ∧ TimingFields l) ∧ WrittenRule ∧
  (∀ t : Timing,
    t.legal = true ↔
      (16 ≤ t.w ∧ t.w ≤ 2048) ∧ (16 ≤ t.h ∧ t.h ≤ 2048) ∧ (8 ≤ t.b ∧ t.b ≤ 1024) ∧ (1 ≤ t.v ∧ t.v ≤ 255) ∧
        (2 ≤ t.div ∧ t.div ≤ 64) ∧ (t.outWidth = 16 ∨ t.outWidth = 18 ∨ t.outWidth = 24) ∧ t.markDiv ≤ 16 ∧
        t.markDelay ≤ 1023 ∧ t.markDelay < t.h + t.v) ∧
  (∀ (tag : Nat) (data : List Byte) (b : Burst) (o : Origin) (s : State), Awaits BurstKind.isTiming tag b s →
    data.length = beatBytes b → s.scan.output = .locking → s.scan.lockPhase = some .reading → s.scan.origin = some o →
    ((parseTiming (named b data)).legal = true →
      exec (.timingReadResponse tag (.ok data)) s =
        .next
          { freed tag s with
            scan :=
              { s.scan with timing := some (parseTiming (named b data)), lockPhase := some .clock, timerOn := true } }) ∧
    ((parseTiming (named b data)).legal = false →
      exec (.timingReadResponse tag (.ok data)) s =
        .next (returnedToOrigin o .timingBad s.regs.dirBase (freed tag s))))

/-- An ERROR on the timing read fails the entry to LOCKING with BUS_FAULT (R52). -/
def Obligations.TimingReadErrorReturnsToOrigin : Prop :=
  ∀ (tag : Nat) (b : Burst) (o : Origin) (s : State), Awaits BurstKind.isTiming tag b s →
    s.scan.output = .locking → s.scan.lockPhase = some .reading → s.scan.origin = some o →
    exec (.timingReadResponse tag .error) s = .next (returnedToOrigin o .busFault b.addr (freed tag s))

/-- The lock timer's expiry (R57), and no effect of it anywhere else. That it has no effect elsewhere is the model's
choice (log entry 2). -/
def Obligations.LockTimeoutResult : Prop :=
  ∀ s : State, s.resetHeld = false →
    (∀ o, s.scan.output = .locking → s.scan.lockPhase = some .clock → s.scan.origin = some o →
      exec .lockTimeout s = .next (returnedToOrigin o .lockTimeout s.regs.dirBase s)) ∧
    (s.scan.output ≠ .locking ∨ s.scan.lockPhase ≠ some .clock → exec .lockTimeout s = .next s)

/-- The lock event (R56, R67, R142): the entry to RUNNING at line H, a latch point that tests a waiting fence and does
not count, and at which an engine AT_TAIL reads its tail again (R117); and the lock events that are discarded. The
operand that tells this entry's event from an earlier entry's, the flags that say which events of a line start are due,
and the order of a load's descriptor reads are the model's choice (log entries 15, 4 and 30). -/
def Obligations.LockEventResult : Prop :=
  ∀ s : State, s.resetHeld = false →
    (∀ t, s.scan.timing = some t → s.scan.output = .locking → s.scan.lockPhase = some .clock →
      ∃ u, exec (.lockEvent true) s = .next u ∧
        u.scan =
          { s.scan with
            output := .running, origin := none, lockPhase := none, timerOn := false,
            line := some { line := t.h, period := 0, latchDue := false, openDue := t.v == 1 } } ∧
        u.regs = { s.regs with events := s.regs.events ||| 0x020 } ∧
        u =
          { s with
            regs := u.regs, scan := u.scan, loader := u.loader, paint := u.paint
            writer := { s.writer with wantBlock := true }
            port := { s.port with loader := u.port.loader, paint := u.port.paint } } ∧
        LoadsIfAllowed s u ∧
        u.paint.fenceCount = s.paint.fenceCount ∧ (s.paint.engine = .atTail → TailReread s u) ∧
        (s.paint.engine ≠ .atTail → s.paint.engine ≠ .waiting → u.paint = s.paint ∧ u.port.paint = s.port.paint) ∧
        ∀ h, s.paint.held = some h → FenceTested h s u) ∧
    (∀ current, current = false ∨ s.scan.output ≠ .locking ∨ s.scan.lockPhase ≠ some .clock →
      exec (.lockEvent current) s = .next s)

/-- The start of a line (R65, R70): the scan of the next line begins, with its own events due, and on a blank line
nothing else happens but that no list is current. That the next line starts only when the events of this line's start
have been taken is the model's choice (log entry 4). -/
def Obligations.StartOfLineResult : Prop :=
  ∀ (t : Timing) (lp : LinePos) (n : Nat) (s : State), s.resetHeld = false → s.scan.output.sends = true →
    s.scan.timing = some t → s.scan.line = some lp → lp.latchDue = false → lp.openDue = false →
    s.scan.mark ≠ some 0 → n = (if lp.line + 1 < t.h + t.v then lp.line + 1 else 0) →
    ∃ u, exec .startOfLine s = .next u ∧
      u.scan =
        { s.scan with
          line := some { line := n, period := 0, latchDue := n == t.h, openDue := n + 1 == t.h + t.v }, fmk := false,
          mark := s.scan.mark.map fun k => k - 1 } ∧
      u =
        { s with
          regs := u.regs, scan := u.scan, comp := u.comp, fetch := u.fetch
          port := { s.port with fetch := u.port.fetch, reads := u.port.reads } } ∧
      (t.h ≤ n →
        u.comp = { s.comp with current := [] } ∧ u.fetch = s.fetch ∧ u.regs = s.regs ∧ u.port = s.port)

/-- The start of an active line in the line store (R100, R102): the banks exchange roles, the underrun count and
UNDERRUN follow a late line, bursts not granted are withdrawn and those granted are marked to be discarded (R101),
and the next line's list is formed and its fetch begun (R73 to R75, R95 to R98).
The hypotheses that no event of the line before is due follow the model's choice, and the mark of a burst whose work has
ended is the model's (log entries 4 and 21). -/
def Obligations.ActiveLineStartResult : Prop :=
  ∀ (t : Timing) (lp : LinePos) (n : Nat) (late : Bool) (s : State), s.resetHeld = false →
    s.scan.output.sends = true → s.scan.timing = some t → s.scan.line = some lp → lp.latchDue = false →
    lp.openDue = false → s.scan.mark ≠ some 0 → n = (if lp.line + 1 < t.h + t.v then lp.line + 1 else 0) → n < t.h →
    late = (s.fetch.active.isSome && s.fetch.filling.any fun sp => sp.status == .waiting) →
    ∃ u, exec .startOfLine s = .next u ∧ u.fetch.reading = s.fetch.filling ∧
      u.fetch.underruns =
        (if late = true ∧ s.fetch.underruns ≠ 0xFFFFFFFF then s.fetch.underruns + 1 else s.fetch.underruns) ∧
      u.regs = (if late = true then { s.regs with events := s.regs.events ||| 0x008 } else s.regs) ∧
      u.comp.current.map (fun l => (l.pos, l.first, l.count, l.row)) =
        s.comp.coming.map (fun l => (l.pos, l.first, l.count, l.row)) ∧
      u.comp.flags = s.comp.flags ∧ u.comp.offsets = s.comp.offsets ∧
      (n + 1 < t.h → s.loader.shownSlot ≠ none →
        u.fetch.active = some (n + 1) ∧
          u.comp.coming.map Listed.pos =
            (List.range s.loader.shownTable.length).filter fun i =>
              (s.loader.shownTable[i]?).any fun w => w.dst.y ≤ n + 1 && n + 1 ≤ w.dst.y + w.dst.h - 1 && w.dst.h != 0) ∧
      (n + 1 < t.h → s.loader.shownSlot ≠ none → ListsLine t.w (n + 1) u ∧ FetchBegun (n + 1) [] u) ∧
      u.loader = s.loader ∧
      u.port =
        { s.port with
          fetch := u.port.fetch
          reads :=
            s.port.reads.map fun pl =>
              if pl.burst.kind.isSpan then { pl with burst := { pl.burst with dropped := true } } else pl } ∧
      (n + 1 = t.h ∨ s.loader.shownSlot = none →
        u.fetch.active = none ∧ u.comp.coming = [] ∧ u.port.fetch = [] ∧ u.fetch.filling = s.fetch.reading)

/-- Which windows take part in a line (R76), decided at its start: a SURFACE window with a visible column is skipped
exactly when its fault flag is set or its span is not COMPLETE; no other window is. The hypotheses that no event of
the line before is due follow the model's choice (log entry 4). -/
def Obligations.WindowsSkippedOnALine : Prop :=
  ∀ (t : Timing) (lp : LinePos) (s : State), s.resetHeld = false → s.scan.output.sends = true →
    s.scan.timing = some t → s.scan.line = some lp → lp.latchDue = false → lp.openDue = false →
    s.scan.mark ≠ some 0 → (lp.line + 1 < t.h ∨ t.h + t.v ≤ lp.line + 1) → 0 < t.h →
    ∃ u, exec .startOfLine s = .next u ∧
      ∀ (i : Nat) (l : Listed) (w : Window), s.comp.coming[i]? = some l → s.loader.shownTable[l.pos]? = some w →
        ∃ l', u.comp.current[i]? = some l' ∧
          (l'.mark = true ↔
            (∃ sf, w.content = .surface sf) ∧ l.count ≠ 0 ∧
              (s.comp.flags.toList[l.pos]? = some true ∨
                ∀ sp, s.fetch.filling[i]? = some sp → sp.status ≠ .complete))

/-- The latch point in RUNNING (R66, R69, R70), and in PARKING, where it completes the park (R60); at either an engine
AT_TAIL reads its tail again (R117). The flags that say which events of a line start are due, and the order of a load's
descriptor reads, are the model's own (log entries 4 and 30). -/
def Obligations.LatchPointResult : Prop :=
  ∀ (t : Timing) (lp : LinePos) (s : State), s.resetHeld = false → s.scan.timing = some t → s.scan.line = some lp →
    lp.latchDue = true →
    (s.scan.output = .running →
      ∃ u, exec .latchPoint s = .next u ∧
        u.scan =
          { s.scan with
            frameCounter := s.scan.frameCounter + 1, line := some { lp with latchDue := false },
            mark :=
              if t.markDiv ≠ 0 ∧ (s.scan.frameCounter + 1).toNat % t.markDiv = 0 then some t.markDelay
              else s.scan.mark } ∧
        u =
          { s with
            scan := u.scan, loader := u.loader, paint := u.paint, writer := { s.writer with wantBlock := true }
            port := { s.port with loader := u.port.loader, paint := u.port.paint } } ∧
        LoadsIfAllowed s u ∧
        (s.paint.engine = .atTail → TailReread s u) ∧
        (s.paint.engine ≠ .atTail → s.paint.engine ≠ .waiting →
          u.paint = s.paint ∧ u.port.paint = s.port.paint)) ∧
    (s.scan.output = .parking →
      ∃ u, exec .latchPoint s = .next u ∧
        u.scan =
          { s.scan with
            output := .parked, frameCounter := s.scan.frameCounter + 1, line := none, mark := none, fmk := false } ∧
        u =
          { s with
            regs := { s.regs with events := s.regs.events ||| 0x040 }
            scan := u.scan, paint := u.paint, writer := { s.writer with wantBlock := true }
            port := { s.port with paint := u.port.paint } } ∧
        (s.paint.engine = .atTail → TailReread s u) ∧
        (s.paint.engine ≠ .atTail → s.paint.engine ≠ .waiting →
          u.paint = s.paint ∧ u.port.paint = s.port.paint))

/-- The frame open with a scene staged: the take-over (R18, R19, R84, R88), each of whose slot writes is made for the
staged sequence, the list and the fetch of line 0 (R86, R95), and the tests of a waiting fence and of a held order (R142,
R140). Of the new writes the SHOWN write alone asks for the status block, with its issue, and the bursts that wait before
them keep their own marks. The flags that say which events of a line start
are due, when the block is asked for, and that a released order's row is begun whole and in what order its reads stand,
are the model's own (log entries 4, 25 and 16). -/
def Obligations.FrameOpenTakesOver : Prop :=
  ∀ (t : Timing) (lp : LinePos) (st : Staged) (s : State), s.resetHeld = false → s.scan.output.sends = true →
    s.scan.timing = some t → s.scan.line = some lp → lp.latchDue = false → lp.openDue = true →
    s.loader.staged = some st →
    ∃ u, exec .frameOpen s = .next u ∧ u.scan = { s.scan with line := some { lp with openDue := false } } ∧
      u.loader =
        { s.loader with
          shownTable := s.loader.stagedTable, stagedTable := [], shownSlot := some st.slot, shownSeq := st.seq,
          shownMin := st.minFrames, shownBg := st.bg, hasShown := true, framesShown := 1, staged := none,
          inView := viewEntries s.loader.stagedTable } ∧
      u =
        { s with
          regs := { s.regs with events := s.regs.events ||| 0x001 }
          scan := u.scan, loader := u.loader, paint := u.paint, writer := u.writer
          comp :=
            { s.comp with
              coming := u.comp.coming, offsets := s.loader.stagedTable.map startOffset,
              flags := Vector.replicate 16 false }
          fetch := { s.fetch with active := some 0, filling := u.fetch.filling }
          port := { s.port with fetch := u.port.fetch, loader := u.port.loader, paint := u.port.paint } } ∧
      LoaderIssues
        (s.port.loader ++
          st.skip.map (fun n =>
            burstAt (.slotWrite n st.seq false) (s.regs.dirBase.toNat + 0x20 + 32 * n.val) 4 [5, 0, 0, 0]) ++
          s.loader.shownSlot.toList.map (fun n =>
            burstAt (.slotWrite n st.seq false) (s.regs.dirBase.toNat + 0x20 + 32 * n.val) 4 [3, 0, 0, 0]) ++
          [burstAt (.slotWrite st.slot st.seq true) (s.regs.dirBase.toNat + 0x20 + 32 * st.slot.val) 4 [2, 0, 0, 0]])
        s u ∧
      (∀ (i : Nat) (w : Window), s.loader.stagedTable[i]? = some w → ∃ o, u.comp.offsets[i]? = some o ∧ StartsAt w o) ∧
      ListsLine t.w 0 u ∧ FetchBegun 0 s.port.fetch u ∧
      (∀ h, s.paint.held = some h → FenceTested h s u ∧ (s.paint.engine = .held → HoldTested h s u)) ∧
      (s.paint.engine ≠ .waiting → s.paint.engine ≠ .held → u.paint = s.paint ∧ u.port.paint = s.port.paint)

/-- The frame open with no scene staged: the shown scene runs on (R20, R85, R88), with the list and the fetch of line 0
(R86, R95), or nothing is shown. The flags that say which events of a line start are due are the model's own (log
entry 4). -/
def Obligations.FrameOpenRunsOn : Prop :=
  ∀ (t : Timing) (lp : LinePos) (s : State), s.resetHeld = false → s.scan.output.sends = true →
    s.scan.timing = some t → s.scan.line = some lp → lp.latchDue = false → lp.openDue = true →
    s.loader.staged = none →
    ∃ u, exec .frameOpen s = .next u ∧ u.scan = { s.scan with line := some { lp with openDue := false } } ∧
      u =
        { s with
          scan := u.scan, loader := u.loader, fetch := u.fetch
          comp := { s.comp with coming := u.comp.coming, offsets := u.comp.offsets, flags := Vector.replicate 16 false }
          port := { s.port with fetch := u.port.fetch } } ∧
      (s.loader.shownSlot ≠ none →
        u.loader = { s.loader with framesShown := if s.loader.framesShown < 255 then s.loader.framesShown + 1 else 255 } ∧
          u.comp.offsets = List.zipWith advanceOffset s.loader.shownTable s.comp.offsets ∧
          u.fetch = { s.fetch with active := some 0, filling := u.fetch.filling } ∧
          (∀ (i : Nat) (w : Window) (o : Option Offset), s.loader.shownTable[i]? = some w →
            s.comp.offsets[i]? = some o → ∃ o', u.comp.offsets[i]? = some o' ∧ Advances w o o') ∧
          ListsLine t.w 0 u ∧ FetchBegun 0 s.port.fetch u) ∧
      (s.loader.shownSlot = none →
        u.loader = s.loader ∧ u.comp.coming = s.comp.coming ∧ u.comp.offsets = s.comp.offsets ∧ u.fetch = s.fetch ∧
          u.port = s.port)

/-- The pulse of a frame mark whose lines have run out (R70). That it has no effect elsewhere is the model's choice
(log entry 2). -/
def Obligations.FrameMarkResult : Prop :=
  ∀ s : State, s.resetHeld = false →
    (s.scan.output.sends = true → s.scan.mark = some 0 →
      exec .frameMark s =
        .next
          { s with
            scan := { s.scan with mark := none, fmk := true }
            regs := { s.regs with events := s.regs.events ||| 0x004 } }) ∧
    (s.scan.output.sends = false ∨ s.scan.mark ≠ some 0 → exec .frameMark s = .next s)

/-! ### Scenes -/

/-- What a descriptor's bytes give (R184), and a descriptor read answered (R9, R10): an ERROR ends the load with no slot
written, its granted reads are marked to be discarded and its reads that wait are not requested any more; an OK that is
not the last only keeps the descriptor. What becomes of the presented read, and the mark of a burst whose work has
ended, are the model's choice (log entries 12 and 21). -/
def Obligations.DescriptorReadResult : Prop :=
  (∀ l : List Byte, DescriptorFields l) ∧
  ∀ (tag : Nat) (data : List Byte) (b : Burst) (n : Slot) (s : State), Awaits BurstKind.isDescriptor tag b s →
    b.kind = .descriptor n → data.length = beatBytes b →
    (∃ u, exec (.descriptorReadResponse tag .error) s = .next u ∧
      u.loader = loadEnded s.loader ∧
      u.fault =
        { s.fault with
          reports :=
            s.fault.reports ++
              [{ source := .scene, code := .busFault, slot := none, window := none, seq := 0, addr := b.addr }] } ∧
      u.regs = s.regs ∧ u.writer = s.writer ∧ u.scan = s.scan ∧ u.comp = s.comp ∧ u.fetch = s.fetch ∧ u.paint = s.paint ∧
      (u.port.loader.filter fun c => c.kind.isWrite) = (s.port.loader.filter fun c => c.kind.isWrite) ∧
      ReadsStopped BurstKind.isDescriptor (freed tag s).port u.port) ∧
    (2 ≤ s.loader.descLeft →
      exec (.descriptorReadResponse tag (.ok data)) s =
        .next
          { freed tag s with
            loader :=
              { s.loader with
                descs := s.loader.descs.set n.val (some (parseDescriptor (named b data))),
                descLeft := s.loader.descLeft - 1 } })

/-- The end of the descriptor phase (R2, R4, R10 to R14, the descriptor's fields by R184), at the last descriptor read
answered OK: the REJECTED writes of the marked offers, in ascending slot index, and then the load's end without a
candidate, its rejection by R13, or its body reads; no other slot is written. That SCENE_REJECTED is raised although a
write may still wait behind another is the model's reading (log entry 28). -/
def Obligations.DescriptorPhaseEnd : Prop :=
  ∀ (tag : Nat) (data : List Byte) (b : Burst) (n : Slot) (l : Loader) (s : State),
    Awaits BurstKind.isDescriptor tag b s → b.kind = .descriptor n → data.length = beatBytes b → s.loader.descLeft = 1 →
    l = { s.loader with descs := s.loader.descs.set n.val (some (parseDescriptor (named b data))), descLeft := 0 } →
    DescriptorFields (named b data) ∧
    (∀ p, p ∈ unmarked l ↔ l.descs[p.1.val] = some p.2 ∧ p.2.state = 1 ∧ offerCode l p.2 = none) ∧
    ∃ u, exec (.descriptorReadResponse tag (.ok data)) s = .next u ∧ u.scan = s.scan ∧ u.comp = s.comp ∧
      u.fetch = s.fetch ∧ u.paint = s.paint ∧ u.writer = s.writer ∧
      u.port = { (freed tag s).port with loader := u.port.loader } ∧
      (∀ marked, marked = (if markWrites s.regs.dirBase l = [] then s.regs.events else s.regs.events ||| 0x002) →
        (unmarked l = [] →
          u.loader = loadEnded l ∧ u.fault = s.fault ∧ u.regs = { s.regs with events := marked } ∧
            u.port.loader = s.port.loader ++ markWrites s.regs.dirBase l) ∧
        ∀ c, bestOffer (unmarked l) = some c →
          (∀ code, BodyRefused c.2 code →
            u.loader = loadEnded l ∧ u.regs = { s.regs with events := s.regs.events ||| 0x002 } ∧
              u.fault =
                { s.fault with
                  reports :=
                    s.fault.reports ++
                      [{ source := .scene, code := code, slot := some c.1, window := none, seq := c.2.seq,
                         addr := c.2.bodyAddr }] } ∧
              u.port.loader =
                s.port.loader ++ markWrites s.regs.dirBase l ++
                  [burstAt (.slotWrite c.1 c.2.seq false) (s.regs.dirBase.toNat + 0x20 + 32 * c.1.val) 4
                    [4, code.toByte, 0, 0]]) ∧
          ((∀ code, ¬BodyRefused c.2 code) →
            u.loader =
                { l with
                  phase := .body, candidate := some c.1, skip := skipSet l c,
                  image := List.replicate c.2.bodyLen.toNat 0,
                  bodyLeft := (runBursts .body c.2.bodyAddr.toNat c.2.bodyLen.toNat []).length } ∧
              u.fault = s.fault ∧ u.regs = { s.regs with events := marked } ∧
              u.port.loader =
                s.port.loader ++ markWrites s.regs.dirBase l ++
                  runBursts .body c.2.bodyAddr.toNat c.2.bodyLen.toNat []))

/-- The choice of the candidate (R4, R10, R11, R12): an offer of a legal sequence newer than the shown one, chosen
whenever an unmarked offer exists. The unmarked offers are taken in ascending slot index, the first is the best, and
each later one replaces the best when its sequence is newer, so that of two offers whose sequences lie exactly 2^31
apart the earlier stands; among offers that lie within one half of the sequence space above some value the choice is the
newest, ties going to the lower slot. The skip set holds every other unmarked offer that is not newer, in ascending slot
index. -/
def Obligations.CandidateIsTheNewestOffer : Prop :=
  (∀ l : Loader,
    (∀ p, p ∈ unmarked l ↔ l.descs[p.1.val] = some p.2 ∧ p.2.state = 1 ∧ offerCode l p.2 = none) ∧
      (unmarked l).Pairwise (fun p q => p.1 < q.1) ∧ (unmarked l = [] → bestOffer (unmarked l) = none) ∧
      (unmarked l ≠ [] → ∃ c, bestOffer (unmarked l) = some c)) ∧
  (∀ p, bestOffer [p] = some p) ∧
  (∀ (ps : List (Slot × Descriptor)) (p c : Slot × Descriptor), bestOffer ps = some c →
    (NewerSeq p.2.seq c.2.seq → bestOffer (ps ++ [p]) = some p) ∧
      (¬NewerSeq p.2.seq c.2.seq → bestOffer (ps ++ [p]) = some c) ∧
      ((p.2.seq - c.2.seq).toNat = 2 ^ 31 → bestOffer (ps ++ [p]) = some c)) ∧
  ∀ (l : Loader) (c : Slot × Descriptor), bestOffer (unmarked l) = some c →
    l.descs[c.1.val] = some c.2 ∧ c.2.state = 1 ∧ c.2.seq ≠ 0 ∧
      (l.hasShown = true → NewerSeq c.2.seq l.shownSeq) ∧
      (∀ base : Word, (∀ p ∈ unmarked l, (p.2.seq - base).toNat < 2 ^ 31) →
        ∀ p ∈ unmarked l, (p.2.seq - base).toNat ≤ (c.2.seq - base).toNat ∧
          ((p.2.seq - base).toNat = (c.2.seq - base).toNat → c.1 ≤ p.1)) ∧
      (∀ n : Slot, n ∈ skipSet l c ↔ n ≠ c.1 ∧ ∃ d, (n, d) ∈ unmarked l ∧ ¬NewerSeq d.seq c.2.seq) ∧
      (skipSet l c).Pairwise (· < ·)

/-- A body burst answered (R14): OK data joins the image at the burst's own place, the last OK enters CHECKING, an ERROR
rejects the slot, its granted body reads are marked to be discarded and those that wait are not requested any more.
What becomes of the presented body read after an ERROR, and the mark, are the model's choice, and that SCENE_REJECTED is
raised although the REJECTED write may still wait behind that read is its reading (log entries 12, 21 and 28). -/
def Obligations.BodyBurstResult : Prop :=
  (∀ (l d : List Byte) (o : Nat),
    (putBytes l o d).length = l.length ∧
      ∀ i < l.length, (putBytes l o d)[i]? = if o ≤ i ∧ i < o + d.length then d[i - o]? else l[i]?) ∧
  ∀ (tag off : Nat) (data : List Byte) (b : Burst) (s : State), Awaits BurstKind.isBody tag b s →
    b.kind = .body off → data.length = beatBytes b →
    exec (.bodyBurstResponse tag (.ok data)) s =
        .next
          { freed tag s with
            loader :=
              { s.loader with
                image := putBytes s.loader.image off (named b data), bodyLeft := s.loader.bodyLeft - 1,
                phase := if s.loader.bodyLeft ≤ 1 then .checking else s.loader.phase } } ∧
      ∀ (n : Slot) (d : Descriptor), s.loader.candidate = some n → s.loader.descs[n.val] = some d →
        ∃ v, exec (.bodyBurstResponse tag .error) s = .next (loadRejected n d .busFault none b.addr v) ∧
          v = { freed tag s with port := v.port } ∧ ReadsStopped BurstKind.isBody (freed tag s).port v.port

/-- The checks of a scene (R35 to R46), which bytes of a record give the fields they read (R185), what the table entry
of a record and the in-view entries of a table hold (R47, R48), and the end of the checks (R15, R16): the first failing
check rejects the slot; a scene that passes is staged, with nothing written and no event raised, and a held order is
tested again (R140). Between the latch point and the frame open of one line start the checks do not end (R68, log entry
29). That a released order's row is begun whole, and in what order its reads stand, is the model's choice, and that
SCENE_REJECTED is raised although the REJECTED write may still wait is its reading (log entries 16 and 28). -/
def Obligations.SceneChecksResult : Prop :=
  (∀ (d : Descriptor) (body : List Byte), CheckRule d body ∧ WalkRule body ∧ ∀ o, RecordRule body o ∧ EntryRule body o) ∧
    ViewRule ∧
  ∀ (n : Slot) (d : Descriptor) (s : State), s.resetHeld = false → s.loader.phase = .checking →
    s.loader.candidate = some n → s.loader.descs[n.val] = some d →
    (BetweenPhases s → exec .sceneChecksComplete s = .next s) ∧
    (¬BetweenPhases s →
      (∀ code window, checkScene d s.loader.image = .error (code, window) →
        exec .sceneChecksComplete s = .next (loadRejected n d code window d.bodyAddr s)) ∧
      (∀ im, checkScene d s.loader.image = .ok im →
        ∃ u, exec .sceneChecksComplete s = .next u ∧
          u.loader =
            { s.loader with
              phase := .idle, candidate := none, skip := [], image := [], bodyLeft := 0, descLeft := 0,
              descs := Vector.replicate 4 none, stagedTable := im.windows,
              staged :=
                some { slot := n, seq := d.seq, minFrames := im.minFrames, bg := im.bg, skip := s.loader.skip },
              inView := viewEntries s.loader.shownTable ++ viewEntries im.windows } ∧
          u = { s with loader := u.loader, paint := u.paint, port := { s.port with paint := u.port.paint } } ∧
          (readReg 0x18 u).getLsbD 12 = true ∧
          (∀ h, s.paint.engine = .held → s.paint.held = some h → HoldTested h s u) ∧
          (s.paint.engine ≠ .held → u.paint = s.paint ∧ u.port = s.port)))

/-- The answer to a slot write: an OK does no more, an ERROR is reported with the sequence the write was made for. That
the report of a failed REJECTED write of R15 names the slot, window index 0xFF and that sequence is the model's choice
(log entry 31). -/
def Obligations.SlotWriteResult : Prop :=
  ∀ (tag : Nat) (data : List Byte) (b : Burst) (n : Slot) (seq : Word) (asks : Bool) (s : State),
    Awaits BurstKind.isSlotWrite tag b s → b.kind = .slotWrite n seq asks →
    exec (.slotWriteResponse tag (.ok data)) s = .next (freed tag s) ∧
      exec (.slotWriteResponse tag .error) s =
        .next
          { freed tag s with
            fault :=
              { s.fault with
                reports :=
                  s.fault.reports ++
                    [{ source := .scene, code := .busFault, slot := some n, window := none, seq := seq,
                       addr := b.addr }] } }

/-! ### Line fetch -/

/-- A burst of the fetch in flight answered (R99, R103): OK data is placed in its span, which is COMPLETE with its last
burst; an ERROR ends the span, faults the window, is reported and raises FETCH_FAULT, and the bursts of the other spans
go on. The mark of a burst whose work has ended is the model's (log entry 21). -/
def Obligations.SpanBurstResult : Prop :=
  ∀ (tag line place off : Nat) (data : List Byte) (b : Burst) (sp : Span) (s : State),
    Awaits BurstKind.isSpan tag b s → b.kind = .span line place off → data.length = beatBytes b →
    s.fetch.filling[place]? = some sp →
    (∃ u, exec (.spanBurstResponse tag (.ok data)) s = .next u ∧
      u = { freed tag s with fetch := { s.fetch with filling := u.fetch.filling } } ∧
      u.fetch.filling =
        s.fetch.filling.set place
          { sp with
            data := putBytes sp.data off (named b data), left := sp.left - 1,
            status := if sp.left ≤ 1 then .complete else sp.status }) ∧
    (∃ u, exec (.spanBurstResponse tag .error) s = .next u ∧
      u.fetch = { s.fetch with filling := s.fetch.filling.set place { sp with status := .errored } } ∧
      (∀ i, i ≠ sp.pos → u.comp.flags.toList[i]? = s.comp.flags.toList[i]?) ∧
      (sp.pos < 16 → u.comp.flags.toList[sp.pos]? = some true) ∧
      u =
        { s with
          regs := { s.regs with events := s.regs.events ||| 0x010 }
          comp := { s.comp with flags := u.comp.flags }
          fetch := u.fetch
          fault :=
            { s.fault with
              reports :=
                s.fault.reports ++
                  [{ source := .fetch, code := .busFault, slot := s.loader.shownSlot, window := some sp.pos,
                     seq := s.loader.shownSeq, addr := b.addr }] }
          port := u.port } ∧
      u.port =
        { (freed tag s).port with
          fetch := s.port.fetch.filter fun c => !c.kind.ofSpan place,
          reads :=
            (freed tag s).port.reads.map fun pl =>
              if pl.burst.kind.ofSpan place then { pl with burst := { pl.burst with dropped := true } } else pl })

/-! ### The paint chain -/

/-- A word of the chain read while the engine is LOADING (R109, R112, R115, R117): 0 to 7 is the tail, where all but a
tail re-read clear the passed-over count; any other value names the order whose head is read next, its low three bits
ignored. An ERROR halts the engine (R123). The order in which the two bursts of a cut head read are presented is the
model's choice (log entry 34). -/
def Obligations.ChainWordResult : Prop :=
  ∀ (c : Nat → Response → Instr) (k : BurstKind) (tag : Nat) (data : List Byte) (b : Burst) (w : Word) (s : State),
    (c, k) ∈ wordResponses → Awaits (fun j => j == k) tag b s → s.paint.engine = .loading →
    data.length = beatBytes b → w = u32 (named b data) 0 →
    (w.toNat < 8 →
      exec (c tag (.ok data)) s =
        .next
          { freed tag s with
            paint :=
              { s.paint with
                engine := .atTail, passedOver := if k = .tail then s.paint.passedOver else 0 } }) ∧
    (8 ≤ w.toNat →
      ∃ u, exec (c tag (.ok data)) s = .next u ∧
        u.port =
            { (freed tag s).port with
              paint := s.port.paint ++ runBursts (.orderHead (w &&& 0xFFFFFFF8)) (w.toNat / 8 * 8) 12 [] } ∧
        u =
            { freed tag s with
              paint := { s.paint with buf := u.paint.buf, bufLeft := u.paint.bufLeft, bufErr := none }
              port := u.port } ∧
        u.paint.buf.length = 12 ∧
        u.paint.bufLeft = (runBursts (.orderHead (w &&& 0xFFFFFFF8)) (w.toNat / 8 * 8) 12 []).length) ∧
    exec (c tag .error) s = .next (haltedBy .busFault b.addr (freed tag s))

/-- The head of an order read (R113, R116, R123, R186), and the step CHAIN_LOOP: a burst of it that is not the last; a
PENDING order of a known kind, held in SEEN; one of another kind, refused KIND_BAD; an order in any other state, passed
over; the 256th passed over in a row; an ERROR on either burst, whichever answers first. CHAIN_LOOP halts an engine
LOADING with its count at 256. That the loop halts in that step, and that an ERROR is taken when both bursts have
answered, are the model's reading (log entries 7 and 17); that CHAIN_LOOP has no effect elsewhere (log entry 2), and the
order in which the bursts of a cut head or remainder read are presented (log entry 34), are its choice. -/
def Obligations.OrderHeadReadResult : Prop :=
  (∀ s : State,
    (s.resetHeld = false → s.paint.engine = .loading → s.paint.passedOver = 256 →
      exec .chainLoop s = .next (haltedBy .chainLoop s.paint.chainPos s)) ∧
      (¬(s.paint.engine = .loading ∧ s.paint.passedOver = 256) → exec .chainLoop s = .next s)) ∧
  ∀ (tag off n : Nat) (data head : List Byte) (a : Word) (b : Burst) (s : State), Awaits BurstKind.isOrderHead tag b s →
    b.kind = .orderHead a off → s.paint.engine = .loading → data.length = beatBytes b →
    head = putBytes s.paint.buf off (named b data) →
    n = (if u8 head 8 = 1 then 40 else if u8 head 8 = 2 then 24 else if u8 head 8 = 3 then 12
      else if u8 head 8 = 4 then 8 else 0) →
    (2 ≤ s.paint.bufLeft →
      exec (.orderHeadReadResponse tag (.ok data)) s =
        .next { freed tag s with paint := { s.paint with buf := head, bufLeft := s.paint.bufLeft - 1 } }) ∧
    (s.paint.bufLeft ≤ 1 → s.paint.bufErr = none →
      ∃ u, exec (.orderHeadReadResponse tag (.ok data)) s = .next u ∧
        u =
          { freed tag s with
            paint := { u.paint with chainPos := a, fenceCount := s.paint.fenceCount, reenable := s.paint.reenable }
            writer := if s.paint.chainPos = a then s.writer else { s.writer with wantBlock := true }
            port := { (freed tag s).port with paint := u.port.paint } } ∧
        (u8 head 4 = 1 → u.paint.passedOver = 0) ∧
        (u8 head 4 = 1 → 1 ≤ (u8 head 8).toNat → (u8 head 8).toNat ≤ 4 →
          u.paint.engine = .loading ∧
            u.paint.held =
              some
                { addr := a, kind := u8 head 8, flags := u8 head 9, order := .unknown, phase := .seen, decided := none,
                  oldWalk := false, row := 0, src := [], srcLeft := 0 } ∧
            u.paint.buf.length = n ∧ u.paint.bufLeft = (runBursts .remainder (a.toNat + 12) n []).length ∧
            u.paint.bufErr = none ∧ u.port.paint = s.port.paint ++ runBursts .remainder (a.toNat + 12) n []) ∧
        (u8 head 4 = 1 → (u8 head 8).toNat = 0 ∨ 5 ≤ (u8 head 8).toNat →
          u.paint.engine = .executing ∧
            (¬WriteWaits s →
              u.paint.held =
                  some
                    { addr := a, kind := u8 head 8, flags := u8 head 9, order := .unknown, phase := .closing,
                      decided := some (.refused .kindBad), oldWalk := false, row := 0, src := [], srcLeft := 0 } ∧
                u.port.paint = s.port.paint ++ [burstAt .final (a.toNat + 4) 4 [4, 0x08, 0, 0]]) ∧
            (WriteWaits (freed tag s) →
              u.paint.held =
                  some
                    { addr := a, kind := u8 head 8, flags := u8 head 9, order := .unknown, phase := .running,
                      decided := some (.refused .kindBad), oldWalk := false, row := 0, src := [], srcLeft := 0 } ∧
                u.port.paint = s.port.paint)) ∧
        (u8 head 4 ≠ 1 → u.paint.held = s.paint.held) ∧
        (u8 head 4 ≠ 1 → s.paint.passedOver + 1 < 256 → (u32 head 0).toNat < 8 →
          u.paint.engine = .atTail ∧ u.paint.passedOver = 0 ∧ u.port.paint = s.port.paint) ∧
        (u8 head 4 ≠ 1 → s.paint.passedOver + 1 < 256 → 8 ≤ (u32 head 0).toNat →
          u.paint.engine = .loading ∧ u.paint.passedOver = s.paint.passedOver + 1 ∧ u.paint.buf.length = 12 ∧
            u.paint.bufLeft =
              (runBursts (.orderHead (u32 head 0 &&& 0xFFFFFFF8)) ((u32 head 0).toNat / 8 * 8) 12 []).length ∧
            u.paint.bufErr = none ∧
            u.port.paint =
              s.port.paint ++
                runBursts (.orderHead (u32 head 0 &&& 0xFFFFFFF8)) ((u32 head 0).toNat / 8 * 8) 12 []) ∧
        (u8 head 4 ≠ 1 → s.paint.passedOver = 255 →
          u.paint.engine = .loading ∧ u.paint.passedOver = 256 ∧ u.port.paint = s.port.paint ∧
            exec .chainLoop u = .next (haltedBy .chainLoop a u))) ∧
    (2 ≤ s.paint.bufLeft →
      exec (.orderHeadReadResponse tag .error) s =
        .next
          { freed tag s with
            paint :=
              { s.paint with bufLeft := s.paint.bufLeft - 1, bufErr := some (s.paint.bufErr.getD b.addr) } }) ∧
    (∀ (r : Response) (e : Word), s.paint.bufLeft ≤ 1 →
      r = .error ∧ e = s.paint.bufErr.getD b.addr ∨ r = .ok data ∧ s.paint.bufErr = some e →
      ∃ p : Paint, p = { s.paint with buf := p.buf, bufLeft := 0, bufErr := some e } ∧
        exec (.orderHeadReadResponse tag r) s = .next (haltedBy .busFault e { freed tag s with paint := p }))

/-- Which bytes of its record give each field of an order (R186), its checks (R130 to R133, R136), its overlap with a
table of in-view entries (R139), and the remainder of an order read (R114, R139, R142, R144): a burst of it that is not
the last; the first failing check; a COPY or FILL that overlaps the in-view table, held; one that does not, begun; a
fence; a stamp. That a row is begun whole, with its reads or writes issued together, is the model's choice (log entry
16). -/
def Obligations.RemainderReadResult : Prop :=
  (∀ r : List Byte, OrderFields r) ∧
  (∀ o : Order,
    (∀ code, o.firstFailing = some code ↔ FirstOf orderChecks (OrderFails o) code) ∧
      (o.firstFailing = none ↔ ∀ code ∈ orderChecks, ¬OrderFails o code) ∧
      ∀ vs, o.inView vs = true ↔ Overlaps o vs) ∧
  ∀ (tag off : Nat) (data rem : List Byte) (b : Burst) (h h' : Held) (s : State), Awaits BurstKind.isRemainder tag b s →
    b.kind = .remainder off → data.length = beatBytes b → s.paint.held = some h → h.phase = .seen →
    rem = putBytes s.paint.buf off (named b data) →
    h' = { h with order := parseOrder h.kind rem, phase := .running } →
    (2 ≤ s.paint.bufLeft →
      exec (.remainderReadResponse tag (.ok data)) s =
        .next { freed tag s with paint := { s.paint with buf := rem, bufLeft := s.paint.bufLeft - 1 } }) ∧
    ∀ u, u = { freed tag s with paint := { s.paint with buf := rem, bufLeft := 0 } } → s.paint.bufLeft ≤ 1 →
      (∀ code, h'.order.firstFailing = some code →
        (¬WriteWaits s →
            exec (.remainderReadResponse tag (.ok data)) s = .next (closingWith (.refused code) h' u)) ∧
          (WriteWaits u →
            exec (.remainderReadResponse tag (.ok data)) s =
              .next (heldIssues .executing { h' with decided := some (.refused code) } [] u))) ∧
      (h'.order.firstFailing = none →
        (h'.order.inView s.loader.inView = true → h.flags.getLsbD 1 = false →
          exec (.remainderReadResponse tag (.ok data)) s =
            .next (heldIssues .held h' [burstAt .active (h.addr.toNat + 4) 4 [2, 0, 0, 0]] u)) ∧
        (h'.order.inView s.loader.inView = false ∨ h.flags.getLsbD 1 = true →
          (∀ f, h'.order = .fill f →
            exec (.remainderReadResponse tag (.ok data)) s =
              .next
                (heldIssues .executing h'
                  (burstAt .active (h.addr.toNat + 4) 4 [2, 0, 0, 0] ::
                    rowWrites f.dst f.rect.x (f.rect.y + h.row) f.rowBytes) u)) ∧
          (∀ c, h'.order = .copy c →
            ∃ v h'', exec (.remainderReadResponse tag (.ok data)) s = .next v ∧
              v = heldIssues .executing h''
                (burstAt .active (h.addr.toNat + 4) 4 [2, 0, 0, 0] :: c.rowReads (c.rowIndex h.row)) u ∧
              h'' = { h' with src := h''.src, srcLeft := (c.rowReads (c.rowIndex h.row)).length } ∧
              h''.src.length =
                (if c.rotation = 1 ∨ c.rotation = 3 then c.h else c.w) * formatBytes c.src.format)) ∧
        (∀ condition value timeout, h'.order = .fence condition value timeout →
          (FenceHolds condition value s →
            (¬WriteWaits s → exec (.remainderReadResponse tag (.ok data)) s = .next (closingWith .done h' u)) ∧
              (WriteWaits u →
                exec (.remainderReadResponse tag (.ok data)) s =
                  .next (heldIssues .executing { h' with decided := some .done } [] u))) ∧
          (¬FenceHolds condition value s →
            exec (.remainderReadResponse tag (.ok data)) s =
              .next
                (heldIssues .waiting h' [burstAt .active (h.addr.toNat + 4) 4 [2, 0, 0, 0]]
                  { u with paint := { u.paint with fenceCount := 0 } }))) ∧
        (∀ target token, h'.order = .stamp target token →
          exec (.remainderReadResponse tag (.ok data)) s =
            .next
              (heldIssues .executing h' [burstAt .stamp target.toNat 8 (le32 token ++ le32 s.scan.frameCounter)] u)))

/-- The rows of a COPY or FILL (R137, R138): source pixels gathered, a row's writes after its last read, the next row
after its last write, and DONE after the last row. That a FILL too waits for a row's writes is the model's choice
(log entry 16). -/
def Obligations.CopyAndFillRowsResult : Prop :=
  ∀ (tag : Nat) (data : List Byte) (b : Burst) (h : Held) (s : State), s.paint.held = some h → h.phase = .running →
    h.decided = none →
    (∀ off c src, Awaits BurstKind.isCopySrc tag b s → b.kind = .copySrc off → data.length = beatBytes b →
      h.order = .copy c → src = putBytes h.src off (named b data) →
      (2 ≤ h.srcLeft →
        exec (.copyReadResponse tag (.ok data)) s =
          .next
            { freed tag s with
              paint := { s.paint with held := some { h with src := src, srcLeft := h.srcLeft - 1 } } }) ∧
      (h.srcLeft ≤ 1 →
        exec (.copyReadResponse tag (.ok data)) s =
          .next
            (heldIssues s.paint.engine { h with src := src, srcLeft := 0 }
              (rowWrites c.dst c.dx (c.dy + c.rowIndex h.row) (c.rowBytes src (c.rowIndex h.row))) (freed tag s)))) ∧
    (Awaits (fun k => k == .pixel) tag b s →
      (WriteWaits (freed tag s) → exec (.pixelWriteResponse tag (.ok [])) s = .next (freed tag s)) ∧
      (¬WriteWaits (freed tag s) →
        (∀ f, h.order = .fill f → h.row + 1 < f.rect.h →
          exec (.pixelWriteResponse tag (.ok [])) s =
            .next
              (heldIssues s.paint.engine { h with row := h.row + 1 }
                (rowWrites f.dst f.rect.x (f.rect.y + (h.row + 1)) f.rowBytes) (freed tag s))) ∧
        (∀ c, h.order = .copy c → h.row + 1 < c.dstH →
          ∃ v h', exec (.pixelWriteResponse tag (.ok [])) s = .next v ∧
            v = heldIssues s.paint.engine h' (c.rowReads (c.rowIndex (h.row + 1))) (freed tag s) ∧
            h' = { h with row := h.row + 1, src := h'.src, srcLeft := (c.rowReads (c.rowIndex (h.row + 1))).length } ∧
            h'.src.length = (if c.rotation = 1 ∨ c.rotation = 3 then c.h else c.w) * formatBytes c.src.format) ∧
        (h.order.rows ≤ h.row + 1 →
          exec (.pixelWriteResponse tag (.ok [])) s =
            .next (closingWith .done { h with row := h.row + 1 } (freed tag s)))))

/-- The ACTIVE write and the STAMP data write answered OK (R144, R145): the ACTIVE answer starts nothing, the STAMP answer
ends the order DONE, and a final status already decided, ABORTED and FAULT among them, is issued when no write of the
order waits any more (R121, R124), whichever of its reads and writes answers last. -/
def Obligations.ActiveAndStampResult : Prop :=
  ∀ (tag : Nat) (b : Burst) (h : Held) (s : State), s.paint.held = some h →
    (∀ (c : Nat → Response → Instr) (k : BurstKind → Bool) (data : List Byte) (f : FinalStatus),
      (c, k) ∈ runningResponses → Awaits k tag b s → (b.kind.isWrite = false → data.length = beatBytes b) →
      h.phase = .running ∨ h.phase = .faulted → h.decided = some f →
      (WriteWaits (freed tag s) → exec (c tag (.ok data)) s = .next (freed tag s)) ∧
        (¬WriteWaits (freed tag s) → exec (c tag (.ok data)) s = .next (finalIssued f h (freed tag s)))) ∧
    (h.phase = .running → Awaits (fun k => k == .active) tag b s →
      (h.decided = none → exec (.activeWriteResponse tag (.ok [])) s = .next (freed tag s)) ∧
      ∀ f, h.decided = some f →
        (WriteWaits (freed tag s) → exec (.activeWriteResponse tag (.ok [])) s = .next (freed tag s)) ∧
        (¬WriteWaits (freed tag s) → s.paint.engine = .executing →
          exec (.activeWriteResponse tag (.ok [])) s = .next (closingWith f h (freed tag s)))) ∧
    (h.phase = .running → Awaits (fun k => k == .stamp) tag b s → h.decided = none →
      (¬WriteWaits (freed tag s) →
          exec (.stampWriteResponse tag (.ok [])) s = .next (closingWith .done h (freed tag s))) ∧
        (WriteWaits (freed tag s) →
          exec (.stampWriteResponse tag (.ok [])) s =
            .next (heldIssues .executing { h with decided := some .done } [] (freed tag s))))

/-- An ERROR on a read or write of the held order (R121, R124): an order of the walk is FAULTED, its bursts not granted
are withdrawn and its final status is FAULT, issued at once when no write of it is outstanding; one aborted by a PAINT
clear is only reported; and one already FAULTED is not reported again. The last outstanding write's ERROR lets the
ABORTED or the FAULT write be issued, as its OK does. The mark of a read whose work has ended is the model's (log entry
21). -/
def Obligations.HeldOrderErrorResult : Prop :=
  ∀ (c : Nat → Response → Instr) (k : BurstKind → Bool) (tag : Nat) (b : Burst) (h : Held) (s : State),
    s.paint.held = some h → Awaits k tag b s → (∀ d ∈ s.port.paint, d.kind ≠ .final) →
    ((c, k) ∈ runningResponses ∧ h.phase = .running ∧ h.oldWalk = false ∨
        (c, k) = (Instr.remainderReadResponse, BurstKind.isRemainder) ∧ h.phase = .seen →
      ∃ u, exec (c tag .error) s = .next u ∧ KeepsPicture s u ∧ u.regs = s.regs ∧ u.writer = s.writer ∧
        u.paint = { s.paint with engine := .executing, held := u.paint.held } ∧
        u.fault =
          { s.fault with
            reports :=
              s.fault.reports ++
                [{ source := .paint, code := .busFault, slot := none, window := none, seq := 0, addr := b.addr }] } ∧
        u.port.reads =
          (freed tag s).port.reads.map (fun pl =>
            if pl.burst.kind.requester = .paint then { pl with burst := { pl.burst with dropped := true } } else pl) ∧
        u.port = { (freed tag s).port with reads := u.port.reads, paint := u.port.paint } ∧
        (¬EngineWriteOut (freed tag s) →
          u.paint.held = some { h with phase := .closing, decided := some .fault } ∧
            u.port.paint = [burstAt .final (h.addr.toNat + 4) 4 [5, 0x05, 0, 0]]) ∧
        (EngineWriteOut (freed tag s) →
          u.paint.held = some { h with phase := .faulted, decided := some .fault } ∧ u.port.paint = [])) ∧
    ((c, k) ∈ runningResponses → h.phase = .running → h.oldWalk = true →
      ∃ u, exec (c tag .error) s = .next u ∧ u.paint.engine = s.paint.engine ∧
        u.fault.reports =
          s.fault.reports ++
            [{ source := .paint, code := .busFault, slot := none, window := none, seq := 0, addr := b.addr }]) ∧
    (∀ (f : FinalStatus) (t : State), (c, k) ∈ runningResponses → h.phase = .running → h.oldWalk = true →
      h.decided = some f →
      t =
        { freed tag s with
          fault :=
            { s.fault with
              reports :=
                s.fault.reports ++
                  [{ source := .paint, code := .busFault, slot := none, window := none, seq := 0, addr := b.addr }] } } →
      (WriteWaits (freed tag s) → exec (c tag .error) s = .next t) ∧
        (¬WriteWaits (freed tag s) → exec (c tag .error) s = .next (finalIssued f h t))) ∧
    (∀ f, (c, k) ∈ runningResponses → h.phase = .faulted → h.decided = some f →
      (WriteWaits (freed tag s) → exec (c tag .error) s = .next (freed tag s)) ∧
        (¬WriteWaits (freed tag s) → exec (c tag .error) s = .next (finalIssued f h (freed tag s)))) ∧
    ((c, k) ∈ runningResponses → h.phase = .faulted →
      ∃ u, exec (c tag .error) s = .next u ∧ u.fault = s.fault ∧ u.regs = s.regs)

/-- The bytes of each final status (R108), and its write answered (R115, R122, R124, R125, R146), and the order
released: the link read follows, or the engine halts after a FAULT or an ERROR, or a walk re-enabled meanwhile reads the
head pointer. -/
def Obligations.FinalStatusWriteResult : Prop :=
  StatusBytes ∧
  ∀ (tag : Nat) (b : Burst) (h : Held) (f : FinalStatus) (s v : State), Awaits (fun k => k == .final) tag b s →
    s.paint.held = some h → h.phase = .closing → h.decided = some f →
    v =
      { freed tag s with
        paint := { s.paint with held := none }
        regs :=
          if h.flags.getLsbD 0 = true ∧ f ≠ .fault ∧ f ≠ .aborted then
            { s.regs with events := s.regs.events ||| 0x100 }
          else s.regs } →
    (h.oldWalk = false → f ≠ .fault →
      exec (.finalStatusWriteResponse tag (.ok [])) s =
        .next
          { v with
            paint := { v.paint with engine := .loading }
            port := { v.port with paint := s.port.paint ++ [burstAt .link h.addr.toNat 4 []] } }) ∧
    (h.oldWalk = false → f = .fault →
      exec (.finalStatusWriteResponse tag (.ok [])) s =
        .next
          { v with
            paint := { v.paint with engine := .halted }
            regs := { s.regs with events := s.regs.events ||| 0x200 } }) ∧
    (h.oldWalk = true → s.paint.reenable = false → exec (.finalStatusWriteResponse tag (.ok [])) s = .next v) ∧
    (h.oldWalk = true → s.paint.reenable = true →
      exec (.finalStatusWriteResponse tag (.ok [])) s =
        .next
          { v with
            paint := { v.paint with engine := .loading, reenable := false }
            port :=
              { v.port with
                paint := s.port.paint ++ [burstAt .headPointer (s.regs.dirBase.toNat + 0x18) 4 []] } }) ∧
    ∀ w : State,
      w =
        { freed tag s with
          paint := { s.paint with held := none }
          fault :=
            { s.fault with
              reports :=
                s.fault.reports ++
                  [{ source := .paint, code := .busFault, slot := none, window := none, seq := 0, addr := h.addr }] } } →
      (h.oldWalk = false →
        exec (.finalStatusWriteResponse tag .error) s =
          .next
            { w with
              paint := { w.paint with engine := .halted }
              regs := { s.regs with events := s.regs.events ||| 0x200 } }) ∧
      (h.oldWalk = true → s.paint.reenable = false → exec (.finalStatusWriteResponse tag .error) s = .next w) ∧
      (h.oldWalk = true → s.paint.reenable = true →
        exec (.finalStatusWriteResponse tag .error) s =
          .next
            { w with
              paint := { w.paint with engine := .loading, reenable := false }
              port :=
                { w.port with
                  paint := s.port.paint ++ [burstAt .headPointer (s.regs.dirBase.toNat + 0x18) 4 []] } })

/-- A waiting fence at a latch point of RUNNING or PARKING, and the step FENCE_TIMED_OUT (R142): a condition that holds
ends it DONE; a timeout reached ends it TIMED_OUT, which is written once its ACTIVE write has answered; else only the
count advances. That the TIMED_OUT write is issued by FENCE_TIMED_OUT (log entry 7), and that FENCE_TIMED_OUT has no
effect unless an order in RUNNING is held with TIMED_OUT decided (log entry 2), are the model's choice. -/
def Obligations.WaitingFenceResult : Prop :=
  (∀ s : State,
    (∀ h, s.resetHeld = false → s.paint.held = some h → h.phase = .running → h.decided = some .timedOut →
      (¬WriteWaits s → exec .fenceTimedOut s = .next (finalIssued .timedOut h s)) ∧
        (WriteWaits s → exec .fenceTimedOut s = .next s)) ∧
      ((∀ h, s.paint.held = some h → h.phase = .running → h.decided ≠ some .timedOut) →
        exec .fenceTimedOut s = .next s)) ∧
  ∀ (t : Timing) (lp : LinePos) (h : Held) (condition : Byte) (value timeout : Word) (s : State), s.resetHeld = false →
    s.scan.output.sends = true → s.scan.timing = some t → s.scan.line = some lp → lp.latchDue = true →
    s.paint.engine = .waiting → s.paint.held = some h → h.phase = .running → h.decided = none →
    h.order = .fence condition value timeout →
    (∃ u, exec .latchPoint s = .next u ∧
      (FenceHolds condition value u → FenceEnds .done h s u) ∧
      (¬FenceHolds condition value u →
        u.port.paint = s.port.paint ∧ (timeout = 0 → u.paint = s.paint) ∧
          (timeout ≠ 0 → s.paint.fenceCount + 1 ≠ timeout →
            u.paint = { s.paint with fenceCount := s.paint.fenceCount + 1 }) ∧
          (timeout ≠ 0 → s.paint.fenceCount + 1 = timeout →
            u.paint =
                { s.paint with
                  engine := .executing, fenceCount := timeout, held := some { h with decided := some .timedOut } } ∧
              (¬WriteWaits s → exec .fenceTimedOut u = .next (closingWith .timedOut h u)) ∧
              (WriteWaits s → exec .fenceTimedOut u = .next u)))) ∧
    exec .fenceTimedOut s = .next s

/-! ### The fault unit and the status writer -/

/-- A fault report taken (R149): with the latch clear it becomes the error record, with the frame counter; with the
latch set it is only counted, up to 65535. The oldest report of its source is the one taken (the model's choice, log
entry 6). -/
def Obligations.FaultReportResult : Prop :=
  ∀ (src : Source) (r : Report) (pre post : List Report) (s t : State), s.resetHeld = false →
    s.fault.reports = pre ++ r :: post → r.source = src → (∀ q ∈ pre, q.source ≠ src) →
    t = { s with fault := { s.fault with reports := pre ++ post } } →
    (s.fault.latch = false →
      exec (.faultReport src) s =
        .next
          { t with
            fault :=
              { t.fault with
                latch := true, later := 0,
                record :=
                  { code := r.code, source := some src, slot := r.slot, window := r.window, seq := r.seq, addr := r.addr,
                    frame := s.scan.frameCounter } }
            regs := { s.regs with events := s.regs.events ||| 0x400 }
            writer := { s.writer with wantBlock := true, wantRecord := true } }) ∧
    (s.fault.latch = true → s.fault.later < 65535 →
      exec (.faultReport src) s =
        .next
          { t with
            fault := { t.fault with later := s.fault.later + 1 }
            writer := { s.writer with wantCount := true } }) ∧
    (s.fault.latch = true → 65535 ≤ s.fault.later → exec (.faultReport src) s = .next t)

/-- The status writer (R153 to R156, R187, R188): what each of its three writes puts where, one burst after another, at
the control block that DIR_BASE names as the write begins, a request made under an earlier address included (R174), and
when each may begin: a block while no other request is pending, a count while no record request is; and its answers, OK
and ERROR alike, the last of which leaves it idle (log entry 11). -/
def Obligations.StatusWriterResult : Prop :=
  RecordBytes ∧
  ∀ (n : Nat) (s : State), s.resetHeld = false → n = s.regs.dirBase.toNat →
    (s.writer.busy = false →
      (s.writer.wantBlock = true → s.writer.wantRecord = false → s.writer.wantCount = false →
        exec .statusBlockWrite s =
          .next
            { s with
              writer := { s.writer with update := s.writer.update + 1, wantBlock := false, busy := true }
              port :=
                { s.port with
                  status :=
                    s.port.status ++
                      [burstAt .status (n + 0xA0) 4 (le32 (s.writer.update + 1)),
                       burstAt .status (n + 0xA4) 24
                        (le32 s.scan.frameCounter ++ le32 s.loader.shownSeq ++
                          [(match s.loader.shownSlot with | some k => BitVec.ofNat 8 k.val | none => 0xFF),
                           BitVec.ofNat 8 s.scan.output.toNat, BitVec.ofNat 8 s.paint.engine.toNat,
                           if s.fault.latch then 1 else 0] ++
                          le32 s.paint.chainPos ++ le32 s.fetch.underruns ++
                          le32 (match s.scan.timing with | some t => t.tag | none => 0)),
                       burstAt .status (n + 0xBC) 4 (le32 (s.writer.update + 1))] } }) ∧
      (s.writer.wantRecord = true →
        exec .errorRecordWrite s =
          .next
            { s with
              writer := { s.writer with wantRecord := false, wantCount := false, busy := true }
              port :=
                { s.port with
                  status :=
                    s.port.status ++
                      (if s.fault.record.code = .none then
                        [burstAt .status (n + 0xC0) 4
                          [0, sourceByte s.fault.record.source, slotByte s.fault.record.slot,
                           windowByte s.fault.record.window],
                         burstAt .status (n + 0xD0) 4 [0, 0, 0, 0]]
                      else
                        [burstAt .status (n + 0xC0) 16
                          ([s.fault.record.code.toByte, sourceByte s.fault.record.source, slotByte s.fault.record.slot,
                            windowByte s.fault.record.window] ++
                            le32 s.fault.record.seq ++ le32 s.fault.record.addr ++ le32 s.fault.record.frame),
                         burstAt .status (n + 0xD0) 4 (le32 (BitVec.ofNat 32 s.fault.later))]) } }) ∧
      (s.writer.wantCount = true → s.writer.wantRecord = false →
        exec .countWrite s =
          .next
            { s with
              writer := { s.writer with wantCount := false, busy := true }
              port :=
                { s.port with
                  status := s.port.status ++ [burstAt .status (n + 0xD0) 4 (le32 (BitVec.ofNat 32 s.fault.later))] } })) ∧
    (s.writer.wantBlock = false ∨ s.writer.wantRecord = true ∨ s.writer.wantCount = true →
      exec .statusBlockWrite s = .next s) ∧
    (s.writer.wantRecord = false → exec .errorRecordWrite s = .next s) ∧
    (s.writer.wantCount = false ∨ s.writer.wantRecord = true → exec .countWrite s = .next s) ∧
    (s.writer.busy = true →
      exec .statusBlockWrite s = .next s ∧ exec .errorRecordWrite s = .next s ∧ exec .countWrite s = .next s) ∧
    (∀ (tag : Nat) (b : Burst) (r : Response), Awaits BurstKind.isStatus tag b s → r = .ok [] ∨ r = .error →
      exec (.statusWriterResponse tag r) s =
        .next
          (if s.port.status = [] then { freed tag s with writer := { s.writer with busy := false } } else freed tag s))

/-! ### The memory port -/

/-- One grant (R160, R162, R163, R161): the burst granted is that of the highest requester whose presented burst can be
granted; it takes a place of its own under a tag no other place has. One that lies past the top is answered ERROR at
once: what follows is what would follow if it had been carried under some tag and that tag's response were ERROR. And
with none to grant nothing happens. The bursts that the loader's place still holds keep their marks, and the status block
is asked for when a marked write comes to their head and is so issued (R18, R63, R166), and at no other grant. Which
kinds of bursts are writes, whose they are, and that each requester presents its first, is said too (R160). The tags,
that the block of a take-over or of an entry to OFF is asked for with its last slot write, and the moment of the answer
ERROR, are the model's reading (log entries 8, 25 and 10). -/
def Obligations.BurstGrantResult : Prop :=
  BurstKinds ∧
  (∀ p : Port,
    p.presented .fetch = p.fetch.head? ∧ p.presented .loader = p.loader.head? ∧ p.presented .status = p.status.head? ∧
      p.presented .paint = p.paint.head?) ∧
  ∀ s : State, s.resetHeld = false →
    (∀ (q : Requester) (b : Burst), s.port.presented q = some b → ¬Blocked s.port q →
      (∀ p ∈ outranks q, Blocked s.port p) →
      ∃ u, exec .burstGrant s = .next u ∧
        (b.beyond = false →
          u =
              { s with
                writer := u.writer
                port :=
                  { u.port with
                    fetch := if q = .fetch then s.port.fetch.tail else s.port.fetch
                    status := if q = .status then s.port.status.tail else s.port.status
                    paint := if q = .paint then s.port.paint.tail else s.port.paint
                    epoch := s.port.epoch } } ∧
            LoaderIssues (if q = .loader then s.port.loader.tail else s.port.loader) s u ∧
            (b.kind.isWrite = true →
              u.port.reads = s.port.reads ∧
                u.port.write = some { tag := writeTag s.port.epoch, burst := b, abandoned := false }) ∧
            (b.kind.isWrite = false →
              u.port.write = s.port.write ∧
                ∃ n < 8, readTag s.port.epoch n ∉ s.port.reads.map Place.tag ∧
                  u.port.reads =
                    s.port.reads ++ [{ tag := readTag s.port.epoch n, burst := b, abandoned := false }])) ∧
        (b.beyond = true →
          u.port.reads.map Place.tag = s.port.reads.map Place.tag ∧ u.port.write = s.port.write ∧
            ∀ (c : Nat → Response → Instr) (k : BurstKind → Bool), (c, k) ∈ allResponses → k b.kind = true →
              PortWf s.port →
              ∃ (v : State) (tag : Nat),
                exec .burstGrant { s with port := presenting q { b with beyond := false } s.port } = .next v ∧
                  v.port.find k tag = some { b with beyond := false } ∧ exec (c tag .error) v = .next u)) ∧
    ((∀ q, Blocked s.port q) → exec .burstGrant s = .next s)

/-- Responses that no block is handed (R163, R169, R160, R170): one to a burst whose requester has ended the work only
frees its place; one to an abandoned place does the same, OK and ERROR alike; one that matches no place has no effect;
and so has one to a burst granted before a power-on reset, whatever has been granted since. Which place a response
frees, and which burst it answers, is said first. The mark of a burst whose work has ended, the tags that tell the
bursts before a power-on reset from those after it, and that a response that matches no place, and an OK of other beats
than a read's, have no effect, are the model's (log entries 2, 8, 9 and 21). -/
def Obligations.ResponsesDiscarded : Prop :=
  (∀ (k : BurstKind → Bool) (tag : Nat) (b : Burst) (s : State),
    freed tag s =
        { s with
          port :=
            { s.port with
              reads := s.port.reads.filter fun pl => pl.tag != tag
              write := s.port.write.filter fun pl => pl.tag != tag } } ∧
      (s.port.find k tag = some b →
        ∃ pl, (pl ∈ s.port.reads ∨ s.port.write = some pl) ∧ pl.tag = tag ∧ pl.abandoned = false ∧
          k pl.burst.kind = true ∧ pl.burst = b) ∧
      (PortWf s.port →
        (∃ pl, (pl ∈ s.port.reads ∨ s.port.write = some pl) ∧ pl.tag = tag ∧ pl.abandoned = false ∧
          k pl.burst.kind = true ∧ pl.burst = b) →
        s.port.find k tag = some b)) ∧
  (∀ (c : Nat → Response → Instr) (k : BurstKind → Bool) (tag : Nat) (r : Response) (s : State),
    (c, k) ∈ allResponses → s.resetHeld = false →
    (∀ b, s.port.find k tag = some b → b.dropped = true →
      (∀ data, r = .ok data → b.kind.isWrite = false → data.length = beatBytes b) →
      exec (c tag r) s = .next (freed tag s)) ∧
    (∀ b data, s.port.find k tag = some b → b.kind.isWrite = false → data.length ≠ beatBytes b →
      exec (c tag (.ok data)) s = .next s) ∧
    (s.port.find k tag = none → exec (c tag r) s = .next s)) ∧
  (∀ (c : Nat → Response → Instr) (k : BurstKind → Bool) (r : Response) (pl : Place) (s t : State),
    (c, k) ∈ allResponses → PortWf s.port → PortWf t.port → s.port.epoch < t.port.epoch →
    pl ∈ s.port.reads ∨ s.port.write = some pl →
    exec (c pl.tag r) t = .next t ∧ exec (.abandonedResponse pl.tag r) t = .next t) ∧
  ∀ (tag : Nat) (r : Response) (s : State), s.resetHeld = false →
    ((∃ pl ∈ s.port.reads, pl.tag = tag ∧ pl.abandoned = true) ∨
        (∃ pl, s.port.write = some pl ∧ pl.tag = tag ∧ pl.abandoned = true) →
      exec (.abandonedResponse tag r) s = .next (freed tag s)) ∧
    ((∀ pl ∈ s.port.reads, pl.tag = tag → pl.abandoned = false) →
      (∀ pl, s.port.write = some pl → pl.tag = tag → pl.abandoned = false) →
      exec (.abandonedResponse tag r) s = .next s)

/-- The beats that hold a burst's bytes: 8 bytes each, every one that the burst touches (R161). A run of bytes cut into
bursts: each burst is 1 to 64 bytes long and crosses no multiple of 64, each but the last ends at one, each begins where
the one before ends, the first at the run's first byte, and together they carry the run's bytes in order, or none for a
read. The burst that would begin at or past the top of the address space stands at address 0 and is beyond it, and no
other is, of a run or alone. That such bursts are cut at the multiples of 64 too, and that a run wholly past the top
stands at address 0, is the model's choice (log entry 10). -/
def Obligations.RunsAreCutAtMultiplesOf64 : Prop :=
  (∀ (kind : BurstKind) (a n : Nat) (data : List Byte),
    burstAt kind a n data =
      { kind := kind, addr := if a < 2 ^ 32 then BitVec.ofNat 32 a else 0, len := n, data := data,
        beyond := decide (2 ^ 32 ≤ a), dropped := false }) ∧
  (∀ b : Burst, 1 ≤ b.len → beatBytes b = 8 * ((b.addr.toNat + b.len - 1) / 8 - b.addr.toNat / 8 + 1)) ∧
  ∀ (kind : Nat → BurstKind) (a n : Nat) (data : List Byte), data = [] ∨ data.length = n →
    ((runBursts kind a n data).map Burst.len).sum = n ∧ ((runBursts kind a n data).map Burst.data).flatten = data ∧
      ∀ (i p : Nat) (b : Burst), (runBursts kind a n data)[i]? = some b →
        p = a + (((runBursts kind a n data).take i).map Burst.len).sum →
        1 ≤ b.len ∧ b.len ≤ 64 ∧ p / 64 = (p + b.len - 1) / 64 ∧ b.kind = kind (p - a) ∧ b.dropped = false ∧
          (i + 1 < (runBursts kind a n data).length → (p + b.len) % 64 = 0) ∧
          (data = [] → b.data = []) ∧ (data.length = n → b.data.length = b.len) ∧
          (p < 2 ^ 32 → b.addr.toNat = p ∧ p + b.len ≤ 2 ^ 32 ∧ b.beyond = false) ∧
          (2 ^ 32 ≤ p → b.addr = 0 ∧ b.beyond = true)

/-! ### Pixels -/

/-- A pixel from the source to the panel: the surface row and column a window reads (R82, R83); the expansion of a
source pixel of either format (R79); the blend, channel by channel (R81); the resolution from the background up, window
by window (R77), where a window that takes no part in the line or does not reach the column, and a keyed window at a
pixel of its key colour (R80), leave the running value; the idle colour while nothing is shown (R71); the formatting
(R89); and the panel lines while a frame is sent and while none is (R65, R71, R90). -/
def Obligations.PixelResolution : Prop :=
  (∀ (dst : Rect) (sf : Surface) (o : Option Offset) (k : Nat),
    ReadsRow dst sf o k (sourceRow dst sf o k) ∧ ReadsCol dst sf o k (sourceCol dst sf o k)) ∧
  (∀ (l : List Byte) (o r g b : Nat), g < 64 → b < 32 → u16 l o = r * 2048 + g * 32 + b →
    (rgbOfRaw .rgb565 l o).r.toNat = r * 8 + r / 4 ∧ (rgbOfRaw .rgb565 l o).g.toNat = g * 4 + g / 16 ∧
      (rgbOfRaw .rgb565 l o).b.toNat = b * 8 + b / 4) ∧
  (∀ (l : List Byte) (o : Nat), rgbOfRaw .xrgb8888 l o = colourAt l o) ∧
  (∀ (ratio : Nat) (p v : Byte), ratio ≤ 16 →
    (blendChannel ratio p v).toNat = (ratio * p.toNat + (16 - ratio) * v.toNat + 8) / 16) ∧
  (∀ p v : Byte, blendChannel 16 p v = p ∧ blendChannel 0 p v = v) ∧
  (∀ (ratio : Nat) (p v : Rgb),
    (blend ratio p v).r = blendChannel ratio p.r v.r ∧ (blend ratio p v).g = blendChannel ratio p.g v.g ∧
      (blend ratio p v).b = blendChannel ratio p.b v.b) ∧
  (∀ (s : State) (x place : Nat) (v : Rgb) (l : Listed) (w : Window), s.loader.shownTable[l.pos]? = some w →
    (l.mark = true ∨ x < l.first ∨ l.first + l.count ≤ x → resolveWindow s x v (l, place) = v) ∧
    (l.mark = false → l.first ≤ x → x < l.first + l.count →
      (∀ c, w.content = .fill c → resolveWindow s x v (l, place) = blend w.ratio c v) ∧
      ∀ sf sp c, w.content = .surface sf → s.fetch.reading[place]? = some sp →
        c = rgbOfRaw sf.format sp.data ((x - l.first) * sf.format.bytes) →
        (sf.key = some c → resolveWindow s x v (l, place) = v) ∧
          (sf.key ≠ some c → resolveWindow s x v (l, place) = blend w.ratio c v))) ∧
  (∀ (s : State) (x : Nat),
    (∀ t, s.loader.shownSlot = none → s.scan.timing = some t → pixelAt s x = t.idle) ∧
      (s.loader.shownSlot ≠ none → s.comp.current = [] → pixelAt s x = s.loader.shownBg) ∧
      ∀ ls l, s.loader.shownSlot ≠ none → s.comp.current = ls ++ [l] →
        pixelAt s x = resolveWindow s x (pixelAt { s with comp := { s.comp with current := ls } } x) (l, ls.length)) ∧
  (∀ c : Rgb,
    (formatPixel 24 c = c.r ++ c.g ++ c.b) ∧
      (formatPixel 18 c = (0 : BitVec 6) ++ c.r.extractLsb' 2 6 ++ c.g.extractLsb' 2 6 ++ c.b.extractLsb' 2 6) ∧
      (formatPixel 16 c = (0 : BitVec 8) ++ c.r.extractLsb' 3 5 ++ c.g.extractLsb' 2 6 ++ c.b.extractLsb' 3 5)) ∧
  ∀ s : State,
    (∀ t lp, s.scan.output.sends = true → s.scan.timing = some t → s.scan.line = some lp →
      (panelPins s).pclkRuns = true ∧
        (panelPins s).hsync = (if lp.period < t.b / 2 then t.hsyncHigh else !t.hsyncHigh) ∧
        (panelPins s).vsync = (if lp.line = t.h then t.vsyncHigh else !t.vsyncHigh) ∧
        ((panelPins s).de = true ↔ lp.line < t.h ∧ t.b ≤ lp.period ∧ lp.period < t.b + t.w) ∧
        (panelPins s).data =
          if lp.line < t.h ∧ t.b ≤ lp.period ∧ lp.period < t.b + t.w then
            formatPixel t.outWidth (pixelAt s (lp.period - t.b))
          else 0) ∧
    (s.scan.output.sends = false →
      ((panelPins s).pclkRuns = true ↔ s.scan.output = .locking ∧ s.scan.lockPhase = some .clock) ∧
        (∀ t, s.scan.timing = some t → (panelPins s).hsync = !t.hsyncHigh ∧ (panelPins s).vsync = !t.vsyncHigh) ∧
        (s.scan.timing = none → (panelPins s).hsync = false ∧ (panelPins s).vsync = false) ∧
        (panelPins s).de = false ∧ (panelPins s).data = 0)

/-- The placement of a COPY (R134): where each rotation takes a source pixel, with mirror and without, and that every
pixel of the destination rectangle receives exactly one source pixel; the bytes of a pixel of each format (R31) and its
conversion (R135); and the rows
(R137): the reads of a destination row read the source pixels that it needs and no more, and from what they return its
bytes are those pixels, each converted. The rows of a COPY and of a FILL (R31, R137, R138): in which order they are
taken, what a FILL's row holds, and where the writes of a row put its bytes, which lie below the top of the address
space. -/
def Obligations.CopyPlacesEveryPixelOnce : Prop :=
  ((∀ f : Byte, formatBytes f = if f = 1 then 2 else 4) ∧ Format.rgb565.bytes = 2 ∧ Format.xrgb8888.bytes = 4 ∧
    ∀ (f : Byte) (g : Format), Format.ofByte f = some g ↔ f = 1 ∧ g = .rgb565 ∨ f = 2 ∧ g = .xrgb8888) ∧
  (∀ (f : Format) (raw : List Byte), convertPixel f f raw = raw) ∧
  (∀ p : Nat, p < 65536 →
    convertPixel .rgb565 .xrgb8888 (le16 p) =
      [BitVec.ofNat 8 (p % 32 * 8 + p % 32 / 4), BitVec.ofNat 8 (p / 32 % 64 * 4 + p / 32 % 64 / 16),
       BitVec.ofNat 8 (p / 2048 * 8 + p / 2048 / 4), 0]) ∧
  (∀ b g r x : Byte,
    convertPixel .xrgb8888 .rgb565 [b, g, r, x] = le16 (r.toNat / 8 * 2048 + g.toNat / 4 * 32 + b.toNat / 8)) ∧
  (∀ (c : CopyFields) (f g : Format) (row : Nat), (∀ code ∈ orderChecks, ¬OrderFails (.copy c) code) →
    Format.ofByte c.src.format = some f → Format.ofByte c.dst.format = some g → row < c.dstH →
    (∀ b ∈ c.rowReads row, ∀ k < b.len, ∃ col < c.dstW, ∃ e < f.bytes,
      b.addr.toNat + k = sourceAddr c f (c.sourceOf col row) + e) ∧
    ((c.rowReads row).map Burst.len).sum = c.dstW * f.bytes ∧
    ∀ (m : Nat → Byte) (src : List Byte),
      (∀ b ∈ c.rowReads row, ∃ off, b.kind = .copySrc off ∧ ∀ k < b.len, src[off + k]? = some (m (b.addr.toNat + k))) →
      c.rowBytes src row =
        (List.range c.dstW).flatMap fun col =>
          convertPixel f g ((List.range f.bytes).map fun e => m (sourceAddr c f (c.sourceOf col row) + e))) ∧
  (∀ c : CopyFields,
    c.dstW = (copyTarget c).w ∧ c.dstH = (copyTarget c).h ∧ (Order.copy c).rows = (copyTarget c).h ∧
      ∀ n, (FromBelow c → c.rowIndex n = (copyTarget c).h - 1 - n) ∧ (¬FromBelow c → c.rowIndex n = n)) ∧
  (∀ f : FillFields,
    (Order.fill f).rows = f.rect.h ∧
      (f.dst.format = 1 →
        f.rowBytes =
          (List.replicate f.rect.w
            (le16 (f.colour.r.toNat / 8 * 2048 + f.colour.g.toNat / 4 * 32 + f.colour.b.toNat / 8))).flatten) ∧
      (f.dst.format = 2 →
        f.rowBytes = (List.replicate f.rect.w [f.colour.b, f.colour.g, f.colour.r, 0]).flatten)) ∧
  (∀ (o : Order) (d : OrderSurface) (r : Rect) (row : Nat), (∀ code ∈ orderChecks, ¬OrderFails o code) →
    Paints o d r → row < r.h → pixelAddress d r.x (r.y + row) + r.w * (if d.format = 1 then 2 else 4) ≤ 2 ^ 32) ∧
  (∀ (d : OrderSurface) (x y : Nat) (bytes : List Byte), pixelAddress d x y + bytes.length ≤ 2 ^ 32 →
    rowWrites d x y bytes = runBursts (fun _ => .pixel) (pixelAddress d x y) bytes.length bytes ∧
      ((rowWrites d x y bytes).flatMap fun b => (List.range b.len).map fun k => (b.addr.toNat + k, b.data[k]?)) =
        (List.range bytes.length).map fun i => (pixelAddress d x y + i, bytes[i]?)) ∧
  ∀ c : CopyFields, c.rotation.toNat ≤ 3 →
    (∀ i j,
      ({ c with mirror := true } : CopyFields).place i j =
        ({ c with mirror := false } : CopyFields).place (c.w - 1 - i) j) ∧
    (∀ i j, i < c.w → j < c.h →
      (c.place i j).1 < c.dstW ∧ (c.place i j).2 < c.dstH ∧ c.sourceOf (c.place i j).1 (c.place i j).2 = (i, j)) ∧
    (∀ col row, col < c.dstW → row < c.dstH →
      (c.sourceOf col row).1 < c.w ∧ (c.sourceOf col row).2 < c.h ∧
        c.place (c.sourceOf col row).1 (c.sourceOf col row).2 = (col, row)) ∧
    (c.mirror = false → ∀ i j,
      (c.rotation = 0 → c.place i j = (i, j)) ∧ (c.rotation = 1 → c.place i j = (c.h - 1 - j, i)) ∧
        (c.rotation = 2 → c.place i j = (c.w - 1 - i, c.h - 1 - j)) ∧ (c.rotation = 3 → c.place i j = (j, c.w - 1 - i)))

/-! ### What every step keeps -/

/-- The registers, counters and records that one command each may change: DIR_BASE, the enables, the error record while
the latch is set, the frame counter, the underrun count, the update number and the hold by RESET_N, all but a reset's
doing. -/
def Obligations.CountersAndRecordsChangeOnlyByTheirOwners : Prop :=
  ∀ (c : Instr) (s u : State), c.wellFormed = true → c.isReset = false → exec c s = .next u →
    ((∀ v, c ≠ .dirBaseWrite v) → u.regs.dirBase = s.regs.dirBase) ∧
    ((∀ v, c ≠ .eventEnableWrite v) → u.regs.enable = s.regs.enable) ∧
    (s.fault.latch = true → c ≠ .clearFault → u.fault.latch = true ∧ u.fault.record = s.fault.record ∧
      s.fault.later ≤ u.fault.later) ∧
    ((∀ src, c ≠ .faultReport src) → s.fault.latch = false →
      u.fault.latch = false ∧ u.fault.record = s.fault.record) ∧
    (c ≠ .latchPoint → u.scan.frameCounter = s.scan.frameCounter) ∧
    (u.scan.frameCounter = s.scan.frameCounter ∨ u.scan.frameCounter = s.scan.frameCounter + 1) ∧
    (c ≠ .startOfLine → u.fetch.underruns = s.fetch.underruns) ∧
    s.fetch.underruns.toNat ≤ u.fetch.underruns.toNat ∧
    (c ≠ .statusBlockWrite → u.writer.update = s.writer.update) ∧
    (c ≠ .resetNRelease → u.resetHeld = s.resetHeld)

/-- Every step keeps the memory port well formed: at most eight reads and one write outstanding, under distinct tags
(R162, R163), of which none was used before the last power-on reset (R170). Which tags are used is the model's choice
(log entry 8). -/
def Obligations.PortWfIsKept : Prop :=
  ∀ s t : State, PortWf s.port → step s = .next t → PortWf t.port ∧ s.port.epoch ≤ t.port.epoch

/-- Every step keeps the fault unit well formed (R149). -/
def Obligations.FaultWfIsKept : Prop :=
  ∀ s t : State, FaultWf s.fault → step s = .next t → FaultWf t.fault

/-- Every step keeps the scene loader's records and tables well formed (R7, R21, R45, R46, R48), and with the port well
formed it keeps the load in hand so, in which the shown and the staged record never name the same slot (R6); and once a
scene has been shown, the shown sequence changes only to a newer one, but for a reset, which clears it (R5). A table fits
if it has at most 16 windows and no line fails a check on it. The action code of SOFT_RESET carried by
REGISTER_WRITE_OTHER, an ill-formed row, resets too (log entry 23). -/
def Obligations.LoaderWfIsKept : Prop :=
  (∀ ws : List Window,
    TableFits ws ↔ ws.length ≤ 16 ∧ (∀ y, ¬TooDeep ws y) ∧ ∀ y, ¬TooWide ws y) ∧
  ∀ s t : State, LoaderWf s.loader → step s = .next t →
    LoaderWf t.loader ∧
      (PortWf s.port → LoadWf s →
        LoadWf t ∧
          (s.loader.hasShown = true →
            t.loader.hasShown = true ∧
                (t.loader.shownSeq = s.loader.shownSeq ∨ NewerSeq t.loader.shownSeq s.loader.shownSeq) ∨
              t.loader.hasShown = false ∧ t.loader.shownSeq = 0 ∧
                ∃ c q, s.pending = c :: q ∧ (c.isReset = true ∨ c = .registerWriteOther 0x0C 4)))

/-- Every step keeps the output state's own records well formed (R51, R53, R55, R65), and DIR_BASE aligned, and not 0
while the output is on (R174, R176). -/
def Obligations.ScanWfIsKept : Prop :=
  ∀ s t : State, ScanWf s.scan ∧ RegsWf s → step s = .next t → ScanWf t.scan ∧ RegsWf t
end

