-- ==== Sys2Proof/Laws/State.lean ====
section
/-! SUPPORT. One lemma per field of State for each block update, and the messages between blocks as block updates. -/

namespace Sys2Proof.Machine

section

variable (s : State)

/-! ### modRegs -/

@[simp] theorem modRegs_regs (f : Regs → Regs) : (s.modRegs f).regs = f s.regs := rfl
@[simp] theorem modRegs_loader (f : Regs → Regs) : (s.modRegs f).loader = s.loader := rfl
@[simp] theorem modRegs_scan (f : Regs → Regs) : (s.modRegs f).scan = s.scan := rfl
@[simp] theorem modRegs_comp (f : Regs → Regs) : (s.modRegs f).comp = s.comp := rfl
@[simp] theorem modRegs_fetch (f : Regs → Regs) : (s.modRegs f).fetch = s.fetch := rfl
@[simp] theorem modRegs_paint (f : Regs → Regs) : (s.modRegs f).paint = s.paint := rfl
@[simp] theorem modRegs_fault (f : Regs → Regs) : (s.modRegs f).fault = s.fault := rfl
@[simp] theorem modRegs_writer (f : Regs → Regs) : (s.modRegs f).writer = s.writer := rfl
@[simp] theorem modRegs_port (f : Regs → Regs) : (s.modRegs f).port = s.port := rfl
@[simp] theorem modRegs_resetHeld (f : Regs → Regs) : (s.modRegs f).resetHeld = s.resetHeld := rfl
@[simp] theorem modRegs_freeIdx (f : Regs → Regs) : (s.modRegs f).freeIdx = s.freeIdx := rfl
@[simp] theorem modRegs_pending (f : Regs → Regs) : (s.modRegs f).pending = s.pending := rfl

/-! ### modLoader -/

@[simp] theorem modLoader_regs (f : Loader → Loader) : (s.modLoader f).regs = s.regs := rfl
@[simp] theorem modLoader_loader (f : Loader → Loader) : (s.modLoader f).loader = f s.loader := rfl
@[simp] theorem modLoader_scan (f : Loader → Loader) : (s.modLoader f).scan = s.scan := rfl
@[simp] theorem modLoader_comp (f : Loader → Loader) : (s.modLoader f).comp = s.comp := rfl
@[simp] theorem modLoader_fetch (f : Loader → Loader) : (s.modLoader f).fetch = s.fetch := rfl
@[simp] theorem modLoader_paint (f : Loader → Loader) : (s.modLoader f).paint = s.paint := rfl
@[simp] theorem modLoader_fault (f : Loader → Loader) : (s.modLoader f).fault = s.fault := rfl
@[simp] theorem modLoader_writer (f : Loader → Loader) : (s.modLoader f).writer = s.writer := rfl
@[simp] theorem modLoader_port (f : Loader → Loader) : (s.modLoader f).port = s.port := rfl
@[simp] theorem modLoader_resetHeld (f : Loader → Loader) : (s.modLoader f).resetHeld = s.resetHeld := rfl
@[simp] theorem modLoader_freeIdx (f : Loader → Loader) : (s.modLoader f).freeIdx = s.freeIdx := rfl
@[simp] theorem modLoader_pending (f : Loader → Loader) : (s.modLoader f).pending = s.pending := rfl

/-! ### modScan -/

@[simp] theorem modScan_regs (f : Scan → Scan) : (s.modScan f).regs = s.regs := rfl
@[simp] theorem modScan_loader (f : Scan → Scan) : (s.modScan f).loader = s.loader := rfl
@[simp] theorem modScan_scan (f : Scan → Scan) : (s.modScan f).scan = f s.scan := rfl
@[simp] theorem modScan_comp (f : Scan → Scan) : (s.modScan f).comp = s.comp := rfl
@[simp] theorem modScan_fetch (f : Scan → Scan) : (s.modScan f).fetch = s.fetch := rfl
@[simp] theorem modScan_paint (f : Scan → Scan) : (s.modScan f).paint = s.paint := rfl
@[simp] theorem modScan_fault (f : Scan → Scan) : (s.modScan f).fault = s.fault := rfl
@[simp] theorem modScan_writer (f : Scan → Scan) : (s.modScan f).writer = s.writer := rfl
@[simp] theorem modScan_port (f : Scan → Scan) : (s.modScan f).port = s.port := rfl
@[simp] theorem modScan_resetHeld (f : Scan → Scan) : (s.modScan f).resetHeld = s.resetHeld := rfl
@[simp] theorem modScan_freeIdx (f : Scan → Scan) : (s.modScan f).freeIdx = s.freeIdx := rfl
@[simp] theorem modScan_pending (f : Scan → Scan) : (s.modScan f).pending = s.pending := rfl

/-! ### modComp -/

@[simp] theorem modComp_regs (f : Comp → Comp) : (s.modComp f).regs = s.regs := rfl
@[simp] theorem modComp_loader (f : Comp → Comp) : (s.modComp f).loader = s.loader := rfl
@[simp] theorem modComp_scan (f : Comp → Comp) : (s.modComp f).scan = s.scan := rfl
@[simp] theorem modComp_comp (f : Comp → Comp) : (s.modComp f).comp = f s.comp := rfl
@[simp] theorem modComp_fetch (f : Comp → Comp) : (s.modComp f).fetch = s.fetch := rfl
@[simp] theorem modComp_paint (f : Comp → Comp) : (s.modComp f).paint = s.paint := rfl
@[simp] theorem modComp_fault (f : Comp → Comp) : (s.modComp f).fault = s.fault := rfl
@[simp] theorem modComp_writer (f : Comp → Comp) : (s.modComp f).writer = s.writer := rfl
@[simp] theorem modComp_port (f : Comp → Comp) : (s.modComp f).port = s.port := rfl
@[simp] theorem modComp_resetHeld (f : Comp → Comp) : (s.modComp f).resetHeld = s.resetHeld := rfl
@[simp] theorem modComp_freeIdx (f : Comp → Comp) : (s.modComp f).freeIdx = s.freeIdx := rfl
@[simp] theorem modComp_pending (f : Comp → Comp) : (s.modComp f).pending = s.pending := rfl

/-! ### modFetch -/

@[simp] theorem modFetch_regs (f : Fetch → Fetch) : (s.modFetch f).regs = s.regs := rfl
@[simp] theorem modFetch_loader (f : Fetch → Fetch) : (s.modFetch f).loader = s.loader := rfl
@[simp] theorem modFetch_scan (f : Fetch → Fetch) : (s.modFetch f).scan = s.scan := rfl
@[simp] theorem modFetch_comp (f : Fetch → Fetch) : (s.modFetch f).comp = s.comp := rfl
@[simp] theorem modFetch_fetch (f : Fetch → Fetch) : (s.modFetch f).fetch = f s.fetch := rfl
@[simp] theorem modFetch_paint (f : Fetch → Fetch) : (s.modFetch f).paint = s.paint := rfl
@[simp] theorem modFetch_fault (f : Fetch → Fetch) : (s.modFetch f).fault = s.fault := rfl
@[simp] theorem modFetch_writer (f : Fetch → Fetch) : (s.modFetch f).writer = s.writer := rfl
@[simp] theorem modFetch_port (f : Fetch → Fetch) : (s.modFetch f).port = s.port := rfl
@[simp] theorem modFetch_resetHeld (f : Fetch → Fetch) : (s.modFetch f).resetHeld = s.resetHeld := rfl
@[simp] theorem modFetch_freeIdx (f : Fetch → Fetch) : (s.modFetch f).freeIdx = s.freeIdx := rfl
@[simp] theorem modFetch_pending (f : Fetch → Fetch) : (s.modFetch f).pending = s.pending := rfl

/-! ### modPaint -/

@[simp] theorem modPaint_regs (f : Paint → Paint) : (s.modPaint f).regs = s.regs := rfl
@[simp] theorem modPaint_loader (f : Paint → Paint) : (s.modPaint f).loader = s.loader := rfl
@[simp] theorem modPaint_scan (f : Paint → Paint) : (s.modPaint f).scan = s.scan := rfl
@[simp] theorem modPaint_comp (f : Paint → Paint) : (s.modPaint f).comp = s.comp := rfl
@[simp] theorem modPaint_fetch (f : Paint → Paint) : (s.modPaint f).fetch = s.fetch := rfl
@[simp] theorem modPaint_paint (f : Paint → Paint) : (s.modPaint f).paint = f s.paint := rfl
@[simp] theorem modPaint_fault (f : Paint → Paint) : (s.modPaint f).fault = s.fault := rfl
@[simp] theorem modPaint_writer (f : Paint → Paint) : (s.modPaint f).writer = s.writer := rfl
@[simp] theorem modPaint_port (f : Paint → Paint) : (s.modPaint f).port = s.port := rfl
@[simp] theorem modPaint_resetHeld (f : Paint → Paint) : (s.modPaint f).resetHeld = s.resetHeld := rfl
@[simp] theorem modPaint_freeIdx (f : Paint → Paint) : (s.modPaint f).freeIdx = s.freeIdx := rfl
@[simp] theorem modPaint_pending (f : Paint → Paint) : (s.modPaint f).pending = s.pending := rfl

/-! ### modFault -/

@[simp] theorem modFault_regs (f : FaultUnit → FaultUnit) : (s.modFault f).regs = s.regs := rfl
@[simp] theorem modFault_loader (f : FaultUnit → FaultUnit) : (s.modFault f).loader = s.loader := rfl
@[simp] theorem modFault_scan (f : FaultUnit → FaultUnit) : (s.modFault f).scan = s.scan := rfl
@[simp] theorem modFault_comp (f : FaultUnit → FaultUnit) : (s.modFault f).comp = s.comp := rfl
@[simp] theorem modFault_fetch (f : FaultUnit → FaultUnit) : (s.modFault f).fetch = s.fetch := rfl
@[simp] theorem modFault_paint (f : FaultUnit → FaultUnit) : (s.modFault f).paint = s.paint := rfl
@[simp] theorem modFault_fault (f : FaultUnit → FaultUnit) : (s.modFault f).fault = f s.fault := rfl
@[simp] theorem modFault_writer (f : FaultUnit → FaultUnit) : (s.modFault f).writer = s.writer := rfl
@[simp] theorem modFault_port (f : FaultUnit → FaultUnit) : (s.modFault f).port = s.port := rfl
@[simp] theorem modFault_resetHeld (f : FaultUnit → FaultUnit) : (s.modFault f).resetHeld = s.resetHeld := rfl
@[simp] theorem modFault_freeIdx (f : FaultUnit → FaultUnit) : (s.modFault f).freeIdx = s.freeIdx := rfl
@[simp] theorem modFault_pending (f : FaultUnit → FaultUnit) : (s.modFault f).pending = s.pending := rfl

/-! ### modWriter -/

@[simp] theorem modWriter_regs (f : Writer → Writer) : (s.modWriter f).regs = s.regs := rfl
@[simp] theorem modWriter_loader (f : Writer → Writer) : (s.modWriter f).loader = s.loader := rfl
@[simp] theorem modWriter_scan (f : Writer → Writer) : (s.modWriter f).scan = s.scan := rfl
@[simp] theorem modWriter_comp (f : Writer → Writer) : (s.modWriter f).comp = s.comp := rfl
@[simp] theorem modWriter_fetch (f : Writer → Writer) : (s.modWriter f).fetch = s.fetch := rfl
@[simp] theorem modWriter_paint (f : Writer → Writer) : (s.modWriter f).paint = s.paint := rfl
@[simp] theorem modWriter_fault (f : Writer → Writer) : (s.modWriter f).fault = s.fault := rfl
@[simp] theorem modWriter_writer (f : Writer → Writer) : (s.modWriter f).writer = f s.writer := rfl
@[simp] theorem modWriter_port (f : Writer → Writer) : (s.modWriter f).port = s.port := rfl
@[simp] theorem modWriter_resetHeld (f : Writer → Writer) : (s.modWriter f).resetHeld = s.resetHeld := rfl
@[simp] theorem modWriter_freeIdx (f : Writer → Writer) : (s.modWriter f).freeIdx = s.freeIdx := rfl
@[simp] theorem modWriter_pending (f : Writer → Writer) : (s.modWriter f).pending = s.pending := rfl

/-! ### modPort -/

@[simp] theorem modPort_regs (f : Port → Port) : (s.modPort f).regs = s.regs := rfl
@[simp] theorem modPort_loader (f : Port → Port) : (s.modPort f).loader = s.loader := rfl
@[simp] theorem modPort_scan (f : Port → Port) : (s.modPort f).scan = s.scan := rfl
@[simp] theorem modPort_comp (f : Port → Port) : (s.modPort f).comp = s.comp := rfl
@[simp] theorem modPort_fetch (f : Port → Port) : (s.modPort f).fetch = s.fetch := rfl
@[simp] theorem modPort_paint (f : Port → Port) : (s.modPort f).paint = s.paint := rfl
@[simp] theorem modPort_fault (f : Port → Port) : (s.modPort f).fault = s.fault := rfl
@[simp] theorem modPort_writer (f : Port → Port) : (s.modPort f).writer = s.writer := rfl
@[simp] theorem modPort_port (f : Port → Port) : (s.modPort f).port = f s.port := rfl
@[simp] theorem modPort_resetHeld (f : Port → Port) : (s.modPort f).resetHeld = s.resetHeld := rfl
@[simp] theorem modPort_freeIdx (f : Port → Port) : (s.modPort f).freeIdx = s.freeIdx := rfl
@[simp] theorem modPort_pending (f : Port → Port) : (s.modPort f).pending = s.pending := rfl

/-! ### withQueue -/

@[simp] theorem withQueue_regs (q : List Instr) : (s.withQueue q).regs = s.regs := rfl
@[simp] theorem withQueue_loader (q : List Instr) : (s.withQueue q).loader = s.loader := rfl
@[simp] theorem withQueue_scan (q : List Instr) : (s.withQueue q).scan = s.scan := rfl
@[simp] theorem withQueue_comp (q : List Instr) : (s.withQueue q).comp = s.comp := rfl
@[simp] theorem withQueue_fetch (q : List Instr) : (s.withQueue q).fetch = s.fetch := rfl
@[simp] theorem withQueue_paint (q : List Instr) : (s.withQueue q).paint = s.paint := rfl
@[simp] theorem withQueue_fault (q : List Instr) : (s.withQueue q).fault = s.fault := rfl
@[simp] theorem withQueue_writer (q : List Instr) : (s.withQueue q).writer = s.writer := rfl
@[simp] theorem withQueue_port (q : List Instr) : (s.withQueue q).port = s.port := rfl
@[simp] theorem withQueue_resetHeld (q : List Instr) : (s.withQueue q).resetHeld = s.resetHeld := rfl
@[simp] theorem withQueue_freeIdx (q : List Instr) : (s.withQueue q).freeIdx = s.freeIdx := rfl
@[simp] theorem withQueue_pending (q : List Instr) : (s.withQueue q).pending = q := rfl

/-! ### Messages between blocks, as block updates -/

theorem raise_eq (e : Event) : raise e s =
    s.modRegs (Regs.raise e) := rfl
theorem report_eq (r : Report) : report r s =
    s.modFault fun f => { f with reports := f.reports ++ [r] } := rfl
theorem askBlock_eq : askBlock s =
    s.modWriter fun w => { w with wantBlock := true } := rfl
theorem askRecord_eq : askRecord s =
    s.modWriter fun w => { w with wantRecord := true } := rfl
theorem askCount_eq : askCount s =
    s.modWriter fun w => { w with wantCount := true } := rfl
theorem issueLoader_eq (bs : List Burst) : issueLoader bs s =
    s.modPort fun p => { p with loader := p.loader ++ bs } := rfl
theorem issueTiming_eq (b : Burst) : issueTiming b s =
    s.modPort fun p => { p with loader := match p.loader with | [] => [b] | c :: rest => c :: b :: rest } := rfl
theorem issueFetch_eq (bs : List Burst) : issueFetch bs s =
    s.modPort fun p => { p with fetch := p.fetch ++ bs } := rfl
theorem issueStatus_eq (bs : List Burst) : issueStatus bs s =
    s.modPort fun p => { p with status := p.status ++ bs } := rfl
theorem issuePaint_eq (bs : List Burst) : issuePaint bs s =
    s.modPort fun p => { p with paint := p.paint ++ bs } := rfl
theorem setEngine_eq (e : EngineState) : setEngine e s =
    s.modPaint fun p => { p with engine := e } := rfl
theorem modHeld_eq (f : Held → Held) : modHeld f s =
    s.modPaint fun p => { p with held := p.held.map f } := rfl

end

end Sys2Proof.Machine
end

