-- ==== Sys2Proof/Laws/Tables.lean ====
section
/-! SUPPORT. Line depth and line budget over all lines, and what a scene that passes its checks obeys (R7, R45, R46). -/

namespace Sys2Proof.Machine

/-- When some window covers line `y`, the first row of one of them is covered by every window that covers `y`: the rows
where the count can rise. -/
theorem exists_lastStart (ws : List Window) (y : Nat) (h : ∃ w ∈ ws, coversLine y w = true) :
    ∃ w ∈ ws, coversLine y w = true ∧ ∀ v ∈ ws, coversLine y v = true → coversLine w.dst.y v = true := by
  induction ws with
  | nil => simp at h
  | cons a ws ih =>
    by_cases hr : ∃ w ∈ ws, coversLine y w = true
    · obtain ⟨w, hw, hc, hall⟩ := ih hr
      by_cases ha : coversLine y a = true
      · by_cases hle : a.dst.y ≤ w.dst.y
        · refine ⟨w, by simp [hw], hc, fun v hv k => ?_⟩
          rcases List.mem_cons.mp hv with rfl | hv
          · simp only [coversLine, Bool.and_eq_true, decide_eq_true_eq] at hc k ⊢
            omega
          · exact hall v hv k
        · refine ⟨a, by simp, ha, fun v hv k => ?_⟩
          rcases List.mem_cons.mp hv with rfl | hv
          · simp only [coversLine, Bool.and_eq_true, decide_eq_true_eq] at k ⊢
            omega
          · have := hall v hv k
            simp only [coversLine, Bool.and_eq_true, decide_eq_true_eq] at this hc ha k ⊢
            omega
      · refine ⟨w, by simp [hw], hc, fun v hv k => ?_⟩
        rcases List.mem_cons.mp hv with rfl | hv
        · exact absurd k ha
        · exact hall v hv k
    · have ha : coversLine y a = true := by
        obtain ⟨w, hw, hc⟩ := h
        rcases List.mem_cons.mp hw with rfl | hw
        · exact hc
        · exact absurd ⟨w, hw, hc⟩ hr
      refine ⟨a, by simp, ha, fun v hv k => ?_⟩
      rcases List.mem_cons.mp hv with rfl | hv
      · simp only [coversLine, Bool.and_eq_true, decide_eq_true_eq] at k ⊢
        omega
      · exact absurd ⟨v, hv, k⟩ hr

/-- Of two line predicates, the weaker one keeps a sublist of the windows that the stronger one keeps. -/
theorem filter_sublist {p q : Window → Bool} {ws : List Window} (h : ∀ w ∈ ws, p w = true → q w = true) :
    (ws.filter p).Sublist (ws.filter q) := by
  have e : ws.filter p = (ws.filter q).filter p := by
    rw [List.filter_filter]
    refine List.filter_congr fun w hw => ?_
    cases hp : p w with
    | true => simp [h w hw hp]
    | false => rfl
  rw [e]
  exact List.filter_sublist

/-- R45: examining the first row of every window is examining every line. -/
theorem depthExceeded_iff (ws : List Window) : depthExceeded ws = true ↔ ∃ y, 8 < depthAt ws y := by
  simp only [depthExceeded, List.any_eq_true, decide_eq_true_eq]
  constructor
  · rintro ⟨w, _, h⟩
    exact ⟨_, h⟩
  · rintro ⟨y, h⟩
    have hne : ∃ w ∈ ws, coversLine y w = true := by
      have : 0 < (ws.filter (coversLine y)).length := by
        unfold depthAt at h
        omega
      obtain ⟨w, hw⟩ := List.exists_mem_of_length_pos this
      exact ⟨w, (List.mem_filter.mp hw).1, (List.mem_filter.mp hw).2⟩
    obtain ⟨w, hw, _, hall⟩ := exists_lastStart ws y hne
    exact ⟨w, hw, lt_of_lt_of_le h (filter_sublist hall).length_le⟩

/-- R46, in the same way. -/
theorem budgetExceeded_iff (ws : List Window) : budgetExceeded ws = true ↔ ∃ y, 4096 < budgetAt ws y := by
  simp only [budgetExceeded, List.any_eq_true, decide_eq_true_eq]
  constructor
  · rintro ⟨w, _, h⟩
    exact ⟨_, h⟩
  · rintro ⟨y, h⟩
    have hne : ∃ w ∈ ws, coversLine y w = true := by
      by_contra hno
      push Not at hno
      have : ws.filter (coversLine y) = [] := List.filter_eq_nil_iff.mpr fun w hw => by simp [hno w hw]
      simp [budgetAt, this] at h
    obtain ⟨w, hw, _, hall⟩ := exists_lastStart ws y hne
    refine ⟨w, hw, lt_of_lt_of_le h ?_⟩
    exact List.Sublist.sum_le_sum ((filter_sublist hall).map budgetOf) (by simp)

/-- R38: the walk of `n` records gives `n` entries. -/
theorem walkRecords_length {body : List Byte} {n i o stop : Nat} {ws : List Window}
    (h : walkRecords body n i o = .ok (ws, stop)) : ws.length = n := by
  induction n generalizing i o ws stop with
  | zero =>
    simp only [walkRecords, Except.ok.injEq, Prod.mk.injEq] at h
    simp [← h.1]
  | succ n ih =>
    simp only [walkRecords] at h
    split at h
    · simp at h
    · split at h
      · simp at h
      · split at h
        · simp at h
        · split at h
          · simp at h
          · split at h
            · simp at h
            · rename_i k
              simp only [Except.ok.injEq, Prod.mk.injEq] at h
              rw [← h.1, List.length_cons, ih k]

/-- R7: the table of a scene that passes every check. -/
theorem checkScene_fits {d : Descriptor} {body : List Byte} {im : SceneImage} (h : checkScene d body = .ok im) :
    TableFits im.windows := by
  unfold checkScene at h
  split at h
  · simp at h
  · split at h
    · simp at h
    · split at h
      · simp at h
      · rename_i k
        split at h
        · simp at h
        · split at h
          · simp at h
          · split at h
            · simp at h
            · rename_i hd hb
              obtain rfl := Except.ok.inj h
              refine ⟨?_, fun y => ?_, fun y => ?_⟩ <;> dsimp only
              · have := walkRecords_length k
                omega
              · by_contra hc
                exact hd ((depthExceeded_iff _).mpr ⟨y, by omega⟩)
              · by_contra hc
                exact hb ((budgetExceeded_iff _).mpr ⟨y, by omega⟩)

/-- The min-frames of a scene that passes every check (R28). -/
theorem checkScene_minFrames {d : Descriptor} {body : List Byte} {im : SceneImage} (h : checkScene d body = .ok im) :
    MinFramesOk im.minFrames := by
  unfold checkScene at h
  split at h
  · simp at h
  · split at h
    · simp at h
    · split at h
      · simp at h
      · split at h
        · simp at h
        · split at h
          · simp at h
          · split at h
            · simp at h
            · obtain rfl := Except.ok.inj h
              have := (u8 body 1).isLt
              exact ⟨Nat.le_max_left _ _, by simp only [sup_le_iff]; omega⟩

end Sys2Proof.Machine
end

