-- ==== Sys2Proof/Laws/Quiet.lean ====
section
/-! SUPPORT. What the operations that the blocks share leave alone: one lemma `<operation>_quiet` each. -/

namespace Sys2Proof.Machine

/-- What every operation below the scan timing unit's leaves alone: the registers that only the host and a reset write,
the scan timing unit, the fault unit's record, the update number, the underrun count, and which bursts are outstanding.
Events, reports and requests for a status block are only added, and the scene loader's records stay well formed. -/
structure Quiet (s t : State) : Prop where
  dirBase : t.regs.dirBase = s.regs.dirBase
  enable : t.regs.enable = s.regs.enable
  events : ∀ i, s.regs.events.getLsbD i = true → t.regs.events.getLsbD i = true
  latch : t.fault.latch = s.fault.latch
  record : t.fault.record = s.fault.record
  later : t.fault.later = s.fault.later
  reports : s.fault.reports <+: t.fault.reports
  update : t.writer.update = s.writer.update
  wantBlock : s.writer.wantBlock = true → t.writer.wantBlock = true
  scan : t.scan = s.scan
  underruns : t.fetch.underruns = s.fetch.underruns
  resetHeld : t.resetHeld = s.resetHeld
  freeIdx : t.freeIdx = s.freeIdx
  pending : t.pending = s.pending
  tags : t.port.reads.map Place.tag = s.port.reads.map Place.tag
  write : t.port.write = s.port.write
  epoch : t.port.epoch = s.port.epoch
  loader : LoaderWf s.loader → LoaderWf t.loader

theorem Quiet.refl (s : State) : Quiet s s :=
  ⟨rfl, rfl, fun _ h => h, rfl, rfl, rfl, List.prefix_rfl, rfl, fun h => h, rfl, rfl, rfl, rfl, rfl, rfl, rfl, rfl, fun h => h⟩

theorem Quiet.trans {s t u : State} (h : Quiet s t) (k : Quiet t u) : Quiet s u :=
  ⟨k.dirBase.trans h.dirBase, k.enable.trans h.enable, fun i e => k.events i (h.events i e), k.latch.trans h.latch,
    k.record.trans h.record, k.later.trans h.later, h.reports.trans k.reports, k.update.trans h.update,
    fun e => k.wantBlock (h.wantBlock e), k.scan.trans h.scan, k.underruns.trans h.underruns,
    k.resetHeld.trans h.resetHeld, k.freeIdx.trans h.freeIdx, k.pending.trans h.pending, k.tags.trans h.tags,
    k.write.trans h.write, k.epoch.trans h.epoch, fun e => k.loader (h.loader e)⟩

/-! ### Block updates -/

theorem modLoader_quiet {f : Loader → Loader} {s : State} (h : LoaderWf s.loader → LoaderWf (f s.loader)) :
    Quiet s (s.modLoader f) :=
  ⟨rfl, rfl, fun _ h => h, rfl, rfl, rfl, List.prefix_rfl, rfl, fun h => h, rfl, rfl, rfl, rfl, rfl, rfl, rfl,rfl, h⟩

theorem modComp_quiet (f : Comp → Comp) (s : State) : Quiet s (s.modComp f) :=
  ⟨rfl, rfl, fun _ h => h, rfl, rfl, rfl, List.prefix_rfl, rfl, fun h => h, rfl, rfl, rfl, rfl, rfl, rfl, rfl, rfl, fun h => h⟩

theorem modPaint_quiet (f : Paint → Paint) (s : State) : Quiet s (s.modPaint f) :=
  ⟨rfl, rfl, fun _ h => h, rfl, rfl, rfl, List.prefix_rfl, rfl, fun h => h, rfl, rfl, rfl, rfl, rfl, rfl, rfl, rfl, fun h => h⟩

theorem modFetch_quiet {f : Fetch → Fetch} {s : State} (h : (f s.fetch).underruns = s.fetch.underruns) :
    Quiet s (s.modFetch f) :=
  ⟨rfl, rfl, fun _ h => h, rfl, rfl, rfl, List.prefix_rfl, rfl, fun h => h, rfl, h, rfl, rfl, rfl, rfl, rfl, rfl, fun h => h⟩

theorem modPort_quiet {f : Port → Port} {s : State} (h : (f s.port).reads.map Place.tag = s.port.reads.map Place.tag)
    (k : (f s.port).write = s.port.write) (e : (f s.port).epoch = s.port.epoch) : Quiet s (s.modPort f) :=
  ⟨rfl, rfl, fun _ h => h, rfl, rfl, rfl, List.prefix_rfl, rfl, fun h => h, rfl, rfl, rfl, rfl, rfl, h, k, e, fun h => h⟩

/-! ### Messages -/

theorem raise_quiet (e : Event) (s : State) : Quiet s (raise e s) :=
  ⟨rfl, rfl, fun i h => by simp [raise_eq, Regs.raise, h], rfl, rfl, rfl, List.prefix_rfl, rfl, fun h => h, rfl, rfl, rfl,
    rfl, rfl, rfl, rfl, rfl, fun h => h⟩

theorem report_quiet (r : Report) (s : State) : Quiet s (report r s) :=
  ⟨rfl, rfl, fun _ h => h, rfl, rfl, rfl, List.prefix_append _ _, rfl, fun h => h, rfl, rfl, rfl, rfl, rfl, rfl, rfl,
    rfl, fun h => h⟩

theorem askBlock_quiet (s : State) : Quiet s (askBlock s) :=
  ⟨rfl, rfl, fun _ h => h, rfl, rfl, rfl, List.prefix_rfl, rfl, fun _ => rfl, rfl, rfl, rfl, rfl, rfl, rfl, rfl, rfl, fun h => h⟩

theorem issueLoader_quiet (bs : List Burst) (s : State) : Quiet s (issueLoader bs s) :=
  modPort_quiet rfl rfl rfl

theorem issueTiming_quiet (b : Burst) (s : State) : Quiet s (issueTiming b s) :=
  modPort_quiet rfl rfl rfl

theorem issueFetch_quiet (bs : List Burst) (s : State) : Quiet s (issueFetch bs s) :=
  modPort_quiet rfl rfl rfl

theorem issuePaint_quiet (bs : List Burst) (s : State) : Quiet s (issuePaint bs s) :=
  modPort_quiet rfl rfl rfl

/-- Discarding reads changes neither which reads are outstanding nor their tags. -/
theorem dropReads_tags (k : BurstKind → Bool) (p : Port) :
    (p.dropReads k).reads.map Place.tag = p.reads.map Place.tag := by
  simp only [Port.dropReads, List.map_map]
  exact List.map_congr_left fun pl _ => by simp only [Function.comp]; split <;> rfl

theorem settleLoader_quiet (s : State) : Quiet s (settleLoader s) := by
  unfold settleLoader
  split
  · exact (modPort_quiet rfl rfl rfl).trans (askBlock_quiet _)
  · exact .refl s

/-! ### The paint engine's operations -/

theorem modHeld_quiet (f : Held → Held) (s : State) : Quiet s (modHeld f s) :=
  modPaint_quiet _ s

theorem setEngine_quiet (e : EngineState) (s : State) : Quiet s (setEngine e s) :=
  modPaint_quiet _ s

theorem readWord_quiet (k : BurstKind) (a : Nat) (s : State) : Quiet s (readWord k a s) :=
  (setEngine_quiet _ _).trans (issuePaint_quiet _ _)

theorem readHeadPointer_quiet (k : BurstKind) (s : State) : Quiet s (readHeadPointer k s) :=
  readWord_quiet _ _ s

theorem readOrderHead_quiet (a : Word) (s : State) : Quiet s (readOrderHead a s) :=
  (modPaint_quiet _ _).trans (issuePaint_quiet _ _)

theorem rereadTail_quiet (s : State) : Quiet s (rereadTail s) := by
  unfold rereadTail
  split
  · exact readHeadPointer_quiet _ _
  · exact readWord_quiet _ _ _

theorem enterTail_quiet (s : State) : Quiet s (enterTail s) :=
  modPaint_quiet _ s

theorem followLink_quiet (link : Word) (s : State) : Quiet s (followLink link s) := by
  unfold followLink
  split
  · exact enterTail_quiet s
  · exact readOrderHead_quiet _ s

theorem halt_quiet (s : State) : Quiet s (halt s) :=
  (setEngine_quiet _ _).trans (raise_quiet _ _)

theorem reportPaint_quiet (c : Code) (a : Word) (s : State) : Quiet s (reportPaint c a s) :=
  report_quiet _ s

theorem haltOnError_quiet (a : Word) (s : State) : Quiet s (haltOnError a s) :=
  (reportPaint_quiet _ _ _).trans (halt_quiet _)

theorem setChainPos_quiet (a : Word) (s : State) : Quiet s (setChainPos a s) := by
  unfold setChainPos
  dsimp only
  split
  · exact modPaint_quiet _ s
  · exact (modPaint_quiet _ s).trans (askBlock_quiet _)

theorem tryFinish_quiet (s : State) : Quiet s (tryFinish s) := by
  unfold tryFinish
  split
  · exact .refl s
  · split
    · exact .refl s
    · split
      · exact (modHeld_quiet _ s).trans (issuePaint_quiet _ _)
      · exact .refl s

theorem settleFinal_quiet (f : FinalStatus) (s : State) : Quiet s (settleFinal f s) :=
  (setEngine_quiet _ _).trans (modHeld_quiet _ _)

theorem finish_quiet (f : FinalStatus) (s : State) : Quiet s (finish f s) :=
  (settleFinal_quiet f s).trans (tryFinish_quiet _)

theorem withdrawPaint_quiet (s : State) : Quiet s (withdrawPaint s) :=
  modPort_quiet (dropReads_tags _ _) rfl rfl

theorem faultHeld_quiet (a : Word) (s : State) : Quiet s (faultHeld a s) :=
  ((((reportPaint_quiet _ a s).trans (withdrawPaint_quiet _)).trans (setEngine_quiet _ _)).trans
    (modHeld_quiet _ _)).trans (tryFinish_quiet _)

theorem startRow_quiet (s : State) : Quiet s (startRow s) := by
  unfold startRow
  split
  · exact .refl s
  · split
    · exact (modHeld_quiet _ _).trans (issuePaint_quiet _ _)
    · exact issuePaint_quiet _ _
    all_goals exact .refl s

theorem writeRow_quiet (h : Held) (s : State) : Quiet s (writeRow h s) := by
  unfold writeRow
  split
  · exact issuePaint_quiet _ _
  all_goals exact .refl s

theorem nextRow_quiet (h : Held) (s : State) : Quiet s (nextRow h s) := by
  unfold nextRow
  split
  · exact (modHeld_quiet _ _).trans (startRow_quiet _)
  · exact (modHeld_quiet _ _).trans (finish_quiet _ _)

theorem testFence_quiet (s : State) : Quiet s (testFence s) := by
  unfold testFence
  split
  · split
    · split
      · exact finish_quiet _ _
      · exact .refl s
    · exact .refl s
  · exact .refl s

theorem latchFence_quiet (c : Bool) (s : State) : Quiet s (latchFence c s) := by
  unfold latchFence
  split
  · split
    · exact finish_quiet _ _
    · split
      · dsimp only
        split
        · exact (modPaint_quiet _ _).trans (settleFinal_quiet _ _)
        · exact modPaint_quiet _ _
      · exact .refl s
  · exact .refl s

theorem latchPaint_quiet (c : Bool) (s : State) : Quiet s (latchPaint c s) := by
  unfold latchPaint
  split
  · exact rereadTail_quiet s
  · split
    · exact latchFence_quiet c s
    · exact .refl s

theorem endFenceAtOff_quiet (s : State) : Quiet s (endFenceAtOff s) := by
  unfold endFenceAtOff
  split
  · exact finish_quiet _ _
  · exact .refl s

theorem retestHold_quiet (s : State) : Quiet s (retestHold s) := by
  unfold retestHold
  split
  · split
    · exact .refl s
    · split
      · exact .refl s
      · exact (setEngine_quiet _ _).trans (startRow_quiet _)
  · exact .refl s

theorem issueActive_quiet (h : Held) (s : State) : Quiet s (issueActive h s) :=
  issuePaint_quiet _ s

theorem carryOut_quiet (h : Held) (s : State) : Quiet s (carryOut h s) := by
  unfold carryOut
  split
  · split
    · exact (issueActive_quiet _ _).trans (setEngine_quiet _ _)
    · exact (issueActive_quiet _ _).trans (startRow_quiet _)
  · split
    · exact (issueActive_quiet _ _).trans (setEngine_quiet _ _)
    · exact (issueActive_quiet _ _).trans (startRow_quiet _)
  · split
    · exact finish_quiet _ _
    · exact ((modPaint_quiet _ _).trans (issueActive_quiet _ _)).trans (setEngine_quiet _ _)
  · exact issuePaint_quiet _ _
  · exact .refl s

theorem beginOrder_quiet (o : Order) (s : State) : Quiet s (beginOrder o s) := by
  have h : Quiet s (setEngine .executing (modHeld (fun h => { h with order := o, phase := .running }) s)) :=
    (modHeld_quiet _ _).trans (setEngine_quiet _ _)
  unfold beginOrder
  dsimp only
  split
  · exact h
  · split
    · exact h.trans (finish_quiet _ _)
    · exact h.trans (carryOut_quiet _ _)

theorem paintOn_quiet (s : State) : Quiet s (paintOn s) := by
  unfold paintOn
  split
  · dsimp only
    split
    · exact ((modPaint_quiet _ _).trans (setChainPos_quiet _ _)).trans (modPaint_quiet _ _)
    · exact ((modPaint_quiet _ _).trans (setChainPos_quiet _ _)).trans (readHeadPointer_quiet _ _)
  · exact .refl s

theorem clearHeld_quiet (h : Held) (s : State) : Quiet s (clearHeld h s) := by
  unfold clearHeld
  split
  · exact modPaint_quiet _ _
  · exact (modHeld_quiet _ _).trans (tryFinish_quiet _)
  · exact modHeld_quiet _ _
  · exact modHeld_quiet _ _

theorem paintOff_quiet (s : State) : Quiet s (paintOff s) := by
  unfold paintOff
  split
  · exact .refl s
  · dsimp only
    split
    · exact (modPaint_quiet _ _).trans (withdrawPaint_quiet _)
    · exact ((modPaint_quiet _ _).trans (withdrawPaint_quiet _)).trans (clearHeld_quiet _ _)

/-! ### The compositor's and the line fetch unit's operations -/

theorem resetOffsets_quiet (s : State) : Quiet s (resetOffsets s) :=
  modComp_quiet _ s

theorem advanceOffsets_quiet (s : State) : Quiet s (advanceOffsets s) :=
  modComp_quiet _ s

theorem clearFlags_quiet (s : State) : Quiet s (clearFlags s) :=
  modComp_quiet _ s

theorem takeList_quiet (s : State) : Quiet s (takeList s) :=
  modComp_quiet _ s

theorem beginFetch_quiet (y : Nat) (s : State) : Quiet s (beginFetch y s) := by
  unfold beginFetch
  exact (modFetch_quiet rfl).trans (issueFetch_quiet _ _)

theorem formLine_quiet (w y : Nat) (s : State) : Quiet s (formLine w y s) := by
  unfold formLine
  split
  · exact (modComp_quiet _ _).trans (beginFetch_quiet _ _)
  · exact .refl s

theorem endBursts_quiet (s : State) : Quiet s (endBursts s) :=
  modPort_quiet (dropReads_tags _ _) rfl rfl

theorem fetchOff_quiet (s : State) : Quiet s (fetchOff s) :=
  (endBursts_quiet s).trans (modFetch_quiet rfl)

theorem placeBytes_quiet (p o : Nat) (d : List Byte) (s : State) : Quiet s (placeBytes p o d s) :=
  modFetch_quiet rfl

theorem faultSpan_quiet (p : Nat) (a : Word) (s : State) : Quiet s (faultSpan p a s) := by
  unfold faultSpan
  split
  · exact .refl s
  · refine Quiet.trans (Quiet.trans ?_ (report_quiet _ _)) (raise_quiet _ _)
    refine Quiet.trans (Quiet.trans (modFetch_quiet rfl) (modComp_quiet _ _)) (modPort_quiet ?_ rfl rfl)
    exact dropReads_tags _ _

/-! ### The scene loader's operations -/

theorem writeRejected_quiet (n : Slot) (c : Code) (q : Word) (s : State) : Quiet s (writeRejected n c q s) :=
  (issueLoader_quiet _ _).trans (raise_quiet _ _)

theorem reportScene_quiet (c : Code) (n : Option Slot) (w : Option Nat) (q a : Word) (s : State) :
    Quiet s (reportScene c n w q a s) :=
  report_quiet _ s

theorem endLoad_quiet (s : State) : Quiet s (endLoad s) :=
  modLoader_quiet fun h => { h with idle := fun _ => rfl }

theorem beginLoad_quiet (s : State) : Quiet s (beginLoad s) := by
  unfold beginLoad
  split
  · exact (modLoader_quiet fun h => { h with idle := fun _ => rfl }).trans (issueLoader_quiet _ _)
  · exact .refl s

theorem markOffer_quiet (l : Loader) (s : State) (p : Slot × Descriptor) : Quiet s (markOffer l s p) := by
  unfold markOffer
  split
  · exact writeRejected_quiet _ _ _ _
  · exact .refl s

theorem markOffers_quiet (l : Loader) (ps : List (Slot × Descriptor)) (s : State) :
    Quiet s (ps.foldl (markOffer l) s) := by
  induction ps generalizing s with
  | nil => exact .refl s
  | cons p ps ih => exact (markOffer_quiet l s p).trans (ih _)

theorem rejectLoad_quiet (n : Slot) (d : Descriptor) (c : Code) (w : Option Nat) (a : Word) (s : State) :
    Quiet s (rejectLoad n d c w a s) :=
  ((writeRejected_quiet _ _ _ _).trans (reportScene_quiet _ _ _ _ _ _)).trans (endLoad_quiet _)

theorem beginBody_quiet (n : Slot) (d : Descriptor) (k : List Slot) (s : State) : Quiet s (beginBody n d k s) := by
  unfold beginBody
  dsimp only
  refine (modLoader_quiet fun h => ?_).trans (issueLoader_quiet _ _)
  exact { h with idle := nofun }

theorem chooseCandidate_quiet (s : State) : Quiet s (chooseCandidate s) := by
  unfold chooseCandidate
  dsimp only
  split
  · exact (markOffers_quiet _ _ _).trans (endLoad_quiet _)
  · split
    · exact (markOffers_quiet _ _ _).trans (rejectLoad_quiet _ _ _ _ _ _)
    · exact (markOffers_quiet _ _ _).trans (beginBody_quiet _ _ _ _)

theorem stopReads_quiet (k : BurstKind → Bool) (s : State) : Quiet s (stopReads k s) :=
  modPort_quiet (dropReads_tags _ _) rfl rfl

theorem stage_quiet (n : Slot) {d : Descriptor} {im : SceneImage} {s : State}
    (ok : checkScene d s.loader.image = .ok im) : Quiet s (stage n d im s) := by
  unfold stage recomputeView endLoad
  refine Quiet.trans ?_ (retestHold_quiet _)
  simp only [State.modLoader]
  exact modLoader_quiet
    (f := fun l =>
      { l with
        stagedTable := im.windows,
        staged := some { slot := n, seq := d.seq, minFrames := im.minFrames, bg := im.bg, skip := l.skip },
        phase := .idle, candidate := none, skip := [], image := [], bodyLeft := 0, descLeft := 0,
        descs := Vector.replicate 4 none, inView := viewEntries l.shownTable ++ viewEntries im.windows })
    fun h =>
      { h with
        stagedFits := checkScene_fits ok
        view := rfl
        stagedNone := nofun
        minStaged := fun st e => by
          obtain rfl := Option.some.inj e
          exact checkScene_minFrames ok
        idle := fun _ => rfl }

theorem completeChecks_quiet (s : State) : Quiet s (completeChecks s) := by
  unfold completeChecks
  split
  · split
    · exact .refl s
    · split
      · exact rejectLoad_quiet _ _ _ _ _ _
      · exact stage_quiet _ (by assumption)
  · exact .refl s

/-- Showing the staged scene keeps the scene loader's records well formed. -/
theorem showStaged_wf {st : Staged} {s : State} (e : s.loader.staged = some st) (h : LoaderWf s.loader) :
    LoaderWf (recomputeView (showStaged st s)).loader :=
  { h with
    shownFits := h.stagedFits
    stagedFits := ⟨by simp [showStaged, recomputeView], by simp [showStaged, recomputeView, depthAt],
      by simp [showStaged, recomputeView, budgetAt]⟩
    view := rfl
    stagedNone := fun _ => rfl
    shownNone := nofun
    frames := by simp [showStaged, recomputeView]
    minShown := h.minStaged st e
    minStaged := nofun
    notShown := nofun }

theorem settleLoader_loader (s : State) : (settleLoader s).loader = s.loader := by
  unfold settleLoader
  split <;> rfl

theorem takeOver_quiet {st : Staged} {s : State} (e : s.loader.staged = some st) : Quiet s (takeOver st s) := by
  have h : Quiet s (settleLoader (issueLoader (takeOverWrites st s) s)) :=
    (issueLoader_quiet _ _).trans (settleLoader_quiet _)
  have k (u : State) (eu : u.loader.staged = some st) : Quiet u (recomputeView (showStaged st u)) :=
    ⟨rfl, rfl, fun _ h => h, rfl, rfl, rfl, List.prefix_rfl, rfl, fun h => h, rfl, rfl, rfl, rfl, rfl, rfl, rfl,
      rfl, showStaged_wf eu⟩
  unfold takeOver
  exact ((h.trans (k _ (by rw [settleLoader_loader]; exact e))).trans (raise_quiet _ _)).trans (resetOffsets_quiet _)

theorem runOn_quiet (s : State) : Quiet s (runOn s) := by
  unfold runOn
  split
  · rename_i k
    refine (modLoader_quiet fun h => ?_).trans (advanceOffsets_quiet _)
    exact { h with
      shownNone := fun e => absurd k (by rw [e]; simp)
      frames := Nat.min_le_left _ _ }
  · exact .refl s

theorem withdrawLoader_quiet (s : State) : Quiet s (withdrawLoader s) :=
  modPort_quiet (dropReads_tags _ _) rfl rfl

theorem loaderOff_quiet (s : State) : Quiet s (loaderOff s) := by
  unfold loaderOff
  refine ((((endLoad_quiet s).trans (withdrawLoader_quiet _)).trans (issueLoader_quiet _ _)).trans
    (settleLoader_quiet _)).trans (modLoader_quiet fun h => ?_)
  exact { h with
    shownFits := ⟨by simp, by simp [depthAt], by simp [budgetAt]⟩
    stagedFits := ⟨by simp, by simp [depthAt], by simp [budgetAt]⟩
    view := rfl
    stagedNone := fun _ => rfl
    shownNone := fun _ => ⟨rfl, rfl⟩
    frames := Nat.zero_le _
    minStaged := nofun
    notShown := fun e => ⟨rfl, (h.notShown e).2⟩ }

end Sys2Proof.Machine
end

