-- ==== Sys2Proof/Laws/ScanLaws.lean ====
section
/-! SUPPORT. What the scan timing unit's operations leave alone, and which state they leave the unit in. -/

namespace Sys2Proof.Machine

/-- What every operation of a block leaves alone but for the latch point, the start of a line and the steps of the fault
unit and the status writer. -/
structure Mild (s t : State) : Prop where
  dirBase : t.regs.dirBase = s.regs.dirBase
  enable : t.regs.enable = s.regs.enable
  events : ∀ i, s.regs.events.getLsbD i = true → t.regs.events.getLsbD i = true
  latch : t.fault.latch = s.fault.latch
  record : t.fault.record = s.fault.record
  later : t.fault.later = s.fault.later
  reports : s.fault.reports <+: t.fault.reports
  update : t.writer.update = s.writer.update
  wantBlock : s.writer.wantBlock = true → t.writer.wantBlock = true
  frameCounter : t.scan.frameCounter = s.scan.frameCounter
  underruns : t.fetch.underruns = s.fetch.underruns
  resetHeld : t.resetHeld = s.resetHeld
  freeIdx : t.freeIdx = s.freeIdx
  pending : t.pending = s.pending
  tags : t.port.reads.map Place.tag = s.port.reads.map Place.tag
  write : t.port.write = s.port.write
  epoch : t.port.epoch = s.port.epoch
  loader : LoaderWf s.loader → LoaderWf t.loader

theorem Quiet.mild {s t : State} (h : Quiet s t) : Mild s t :=
  ⟨h.dirBase, h.enable, h.events, h.latch, h.record, h.later, h.reports, h.update, h.wantBlock,
    congrArg Scan.frameCounter h.scan, h.underruns, h.resetHeld, h.freeIdx, h.pending, h.tags, h.write, h.epoch, h.loader⟩

theorem Mild.refl (s : State) : Mild s s :=
  (Quiet.refl s).mild

theorem Mild.trans {s t u : State} (h : Mild s t) (k : Mild t u) : Mild s u :=
  ⟨k.dirBase.trans h.dirBase, k.enable.trans h.enable, fun i e => k.events i (h.events i e), k.latch.trans h.latch,
    k.record.trans h.record, k.later.trans h.later, h.reports.trans k.reports, k.update.trans h.update,
    fun e => k.wantBlock (h.wantBlock e), k.frameCounter.trans h.frameCounter, k.underruns.trans h.underruns,
    k.resetHeld.trans h.resetHeld, k.freeIdx.trans h.freeIdx, k.pending.trans h.pending, k.tags.trans h.tags,
    k.write.trans h.write, k.epoch.trans h.epoch, fun e => k.loader (h.loader e)⟩

theorem Mild.quiet {s t u : State} (h : Mild s t) (k : Quiet t u) : Mild s u :=
  h.trans k.mild

theorem modScan_mild {f : Scan → Scan} {s : State} (h : (f s.scan).frameCounter = s.scan.frameCounter) :
    Mild s (s.modScan f) :=
  ⟨rfl, rfl, fun _ h => h, rfl, rfl, rfl, List.prefix_rfl, rfl, fun h => h, h, rfl, rfl, rfl, rfl, rfl, rfl, rfl, fun h => h⟩

theorem modOutputTarget_mild (t : OutputTarget) (s : State) :
    Mild s (s.modRegs fun r => { r with runOutput := t }) :=
  ⟨rfl, rfl, fun _ h => h, rfl, rfl, rfl, List.prefix_rfl, rfl, fun h => h, rfl, rfl, rfl, rfl, rfl, rfl, rfl, rfl, fun h => h⟩

theorem setOutput_mild (o : OutputState) (s : State) : Mild s (setOutput o s) :=
  (modScan_mild rfl).quiet (askBlock_quiet _)

theorem endLocking_mild (s : State) : Mild s (endLocking s) :=
  modScan_mild rfl

theorem enterLocking_mild (o : Origin) (s : State) : Mild s (enterLocking o s) :=
  ((modScan_mild rfl).trans (setOutput_mild _ _)).quiet (issueTiming_quiet _ _)

theorem discardTiming_quiet (s : State) : Quiet s (discardTiming s) :=
  modPort_quiet (dropReads_tags _ _) rfl rfl

theorem enterParked_mild (s : State) : Mild s (enterParked s) :=
  (setOutput_mild _ _).quiet (raise_quiet _ _)

theorem askOffBlock_quiet (shown : Option Slot) (s : State) : Quiet s (askOffBlock shown s) := by
  unfold askOffBlock
  split
  · exact askBlock_quiet s
  · exact .refl s

theorem enterOff_mild (s : State) : Mild s (enterOff s) :=
  ((((((loaderOff_quiet s).trans (modComp_quiet _ _)).trans (fetchOff_quiet _)).mild.trans (modScan_mild rfl)).quiet
    (askOffBlock_quiet _ _)).quiet (endFenceAtOff_quiet _)).quiet (retestHold_quiet _)

theorem requestOutput_mild (t : OutputTarget) (s : State) : Mild s (requestOutput t s) := by
  unfold requestOutput requestOff requestPark requestRun
  split <;> split
  all_goals
    first
    | exact .refl s
    | exact enterOff_mild s
    | exact enterParked_mild s
    | exact ((endLocking_mild s).quiet (discardTiming_quiet _)).trans (enterParked_mild _)
    | exact setOutput_mild _ s
    | exact enterLocking_mild _ s

theorem failEntry_mild (c : Code) (a : Word) (s : State) : Mild s (failEntry c a s) := by
  unfold failEntry
  split
  · exact .refl s
  · rename_i o _
    exact ((((setOutput_mild o.output s).trans (modOutputTarget_mild _ _)).trans (endLocking_mild _)).quiet
      (report_quiet _ _)).quiet (raise_quiet _ _)

theorem lockExpires_mild (s : State) : Mild s (lockExpires s) := by
  unfold lockExpires
  split
  · exact failEntry_mild _ _ _
  · exact .refl s

theorem answerTiming_mild (b : Burst) (a : Answer) (s : State) : Mild s (answerTiming b a s) := by
  unfold answerTiming
  split
  · split
    · exact failEntry_mild _ _ s
    · split
      · exact modScan_mild rfl
      · exact failEntry_mild _ _ s
  · exact .refl s

theorem enterRunning_mild (t : Timing) (s : State) : Mild s (enterRunning t s) :=
  (((((endLocking_mild s).trans (modScan_mild rfl)).trans (setOutput_mild _ _)).quiet (raise_quiet _ _)).quiet
    (beginLoad_quiet _)).quiet (latchPaint_quiet _ _)

theorem lockTaken_mild (c : Bool) (s : State) : Mild s (lockTaken c s) := by
  unfold lockTaken
  split
  · split
    · exact .refl s
    · exact enterRunning_mild _ _
  · exact .refl s

theorem openFrame_mild (t : Timing) (lp : LinePos) (s : State) : Mild s (openFrame t lp s) := by
  have h : Mild s (openTaken lp s) := modScan_mild rfl
  unfold openFrame
  split
  · rename_i st e
    exact ((((h.quiet (takeOver_quiet (s := openTaken lp s) e)).quiet (clearFlags_quiet _)).quiet
      (formLine_quiet _ _ _)).quiet (testFence_quiet _)).quiet (retestHold_quiet _)
  · exact ((h.quiet (runOn_quiet _)).quiet (clearFlags_quiet _)).quiet (formLine_quiet _ _ _)

theorem frameOpens_mild (s : State) : Mild s (frameOpens s) := by
  unfold frameOpens
  split
  · split
    · exact openFrame_mild _ _ _
    · exact .refl s
  · exact .refl s

theorem pulseMark_mild (s : State) : Mild s (pulseMark s) := by
  unfold pulseMark
  split
  · exact Mild.quiet (modScan_mild rfl) (raise_quiet _ _)
  · exact .refl s

theorem pixelPeriod_mild (s : State) : Mild s (pixelPeriod s) := by
  unfold pixelPeriod
  split
  · split
    · exact modScan_mild rfl
    · exact .refl s
  · exact .refl s

end Sys2Proof.Machine
end

