-- ==== Sys2Proof/Laws/Respond.lean ====
section
/-! SUPPORT. What a response, a grant and the answers to bursts can do. -/

namespace Sys2Proof.Machine

/-! ### `live` and `respond` -/

theorem live_running {f : State → State} {s : State} (h : s.resetHeld = false) : live f s = .next (f s) := by
  simp [live, h]

theorem live_held {f : State → State} {s : State} (h : s.resetHeld = true) : live f s = .next s := by
  simp [live, h]

/-- A command answers a next state: the state itself while RESET_N is asserted, else its effect. -/
theorem live_cases {f : State → State} {s t : State} (h : live f s = .next t) :
    (s.resetHeld = true ∧ t = s) ∨ (s.resetHeld = false ∧ t = f s) := by
  cases hr : s.resetHeld <;> simp_all [live]

/-- A response that matches no outstanding burst of its kinds is ignored. -/
theorem respond_unmatched {k : BurstKind → Bool} {tag : Nat} {s : State} (r : Response) (f : Burst → Answer → State → State)
    (h : s.port.find k tag = none) : respond k tag r f s = s := by
  simp [respond, h]

/-- A response to a burst whose requester has ended the work frees the place and does no more. -/
theorem respond_dropped {k : BurstKind → Bool} {tag : Nat} {s : State} {r : Response} {b : Burst}
    (f : Burst → Answer → State → State) (h : s.port.find k tag = some b) (fit : responseFits b r = true)
    (d : b.dropped = true) : respond k tag r f s = s.modPort (Port.free tag) := by
  simp [respond, h, fit, d]

/-- A response to a burst that its requester still wants frees the place and is handed to the requester. -/
theorem respond_answered {k : BurstKind → Bool} {tag : Nat} {s : State} {r : Response} {b : Burst}
    (f : Burst → Answer → State → State) (h : s.port.find k tag = some b) (fit : responseFits b r = true)
    (d : b.dropped = false) :
    respond k tag r f s = f b (responseAnswer b r) (s.modPort (Port.free tag)) := by
  simp [respond, h, fit, d]

/-- Everything a response can do: nothing, free its place, or free it and hand an answer to its requester. -/
theorem respond_cases (k : BurstKind → Bool) (tag : Nat) (r : Response) (f : Burst → Answer → State → State) (s : State) :
    respond k tag r f s = s ∨ respond k tag r f s = s.modPort (Port.free tag) ∨
      ∃ b a, respond k tag r f s = f b a (s.modPort (Port.free tag)) := by
  unfold respond
  split
  · exact .inl rfl
  · split
    · split
      · exact .inr (.inl rfl)
      · exact .inr (.inr ⟨_, _, rfl⟩)
    · exact .inl rfl

/-! ### The answers to bursts are quiet -/

theorem answerDescriptor_quiet (b : Burst) (a : Answer) (s : State) : Quiet s (answerDescriptor b a s) := by
  unfold answerDescriptor
  split
  · split
    · exact ((stopReads_quiet _ s).trans (reportScene_quiet _ _ _ _ _ _)).trans (endLoad_quiet _)
    · dsimp only
      split
      · exact (modLoader_quiet fun h => { h with }).trans (chooseCandidate_quiet _)
      · exact modLoader_quiet fun h => { h with }
  · exact .refl s

theorem answerBody_quiet (b : Burst) (a : Answer) (s : State) : Quiet s (answerBody b a s) := by
  unfold answerBody
  split
  · split
    · refine modLoader_quiet fun h => { h with idle := fun e => ?_ }
      dsimp only at e
      split at e
      · cases e
      · exact h.idle e
    · split
      · exact .refl s
      · exact (stopReads_quiet _ s).trans (rejectLoad_quiet _ _ _ _ _ _)
  · exact .refl s

theorem answerSlotWrite_quiet (b : Burst) (a : Answer) (s : State) : Quiet s (answerSlotWrite b a s) := by
  unfold answerSlotWrite
  split
  · split
    · exact .refl s
    · exact reportScene_quiet _ _ _ _ _ s
  · exact .refl s

theorem answerSpan_quiet (b : Burst) (a : Answer) (s : State) : Quiet s (answerSpan b a s) := by
  unfold answerSpan
  split
  · split
    · exact placeBytes_quiet _ _ _ s
    · exact faultSpan_quiet _ _ s
  · exact .refl s

theorem answerWord_quiet (b : Burst) (a : Answer) {f : Word → State → State} (h : ∀ w u, Quiet u (f w u)) (s : State) :
    Quiet s (answerWord b a f s) := by
  unfold answerWord
  split
  · split
    · exact haltOnError_quiet _ s
    · exact h _ s
  · exact .refl s

theorem followTail_quiet (link : Word) (s : State) : Quiet s (followTail link s) := by
  unfold followTail
  split
  · exact setEngine_quiet _ s
  · exact readOrderHead_quiet _ s

theorem answerHeadPointer_quiet (b : Burst) (a : Answer) (s : State) : Quiet s (answerHeadPointer b a s) :=
  answerWord_quiet b a followLink_quiet s

theorem answerLink_quiet (b : Burst) (a : Answer) (s : State) : Quiet s (answerLink b a s) :=
  answerWord_quiet b a followLink_quiet s

theorem answerTail_quiet (b : Burst) (a : Answer) (s : State) : Quiet s (answerTail b a s) :=
  answerWord_quiet b a followTail_quiet s

theorem holdOrder_quiet (a : Word) (l : List Byte) (s : State) : Quiet s (holdOrder a l s) := by
  unfold holdOrder
  dsimp only
  split
  · exact (modPaint_quiet _ s).trans (beginOrder_quiet _ _)
  · exact (modPaint_quiet _ s).trans (issuePaint_quiet _ _)

theorem passOver_quiet (l : List Byte) (s : State) : Quiet s (passOver l s) := by
  unfold passOver
  dsimp only
  split
  · exact (modPaint_quiet _ s).trans (followLink_quiet _ _)
  · exact modPaint_quiet _ s

theorem headRead_quiet (a : Word) (l : List Byte) (s : State) : Quiet s (headRead a l s) := by
  unfold headRead
  split
  · exact (setChainPos_quiet _ s).trans (holdOrder_quiet _ _ _)
  · exact (setChainPos_quiet _ s).trans (passOver_quiet _ _)

theorem gather_quiet (b : Burst) (off : Nat) (a : Answer) (s : State) : Quiet s (gather b off a s) :=
  modPaint_quiet _ s

theorem answerOrderHead_quiet (b : Burst) (a : Answer) (s : State) : Quiet s (answerOrderHead b a s) := by
  unfold answerOrderHead
  split
  · split
    · dsimp only
      split
      · split
        · exact (gather_quiet _ _ _ s).trans (haltOnError_quiet _ _)
        · exact (gather_quiet _ _ _ s).trans (headRead_quiet _ _ _)
      · exact gather_quiet _ _ _ s
    · exact .refl s
  · exact .refl s

theorem answerRemainder_quiet (b : Burst) (a : Answer) (s : State) : Quiet s (answerRemainder b a s) := by
  unfold answerRemainder
  split
  · split
    · split
      · exact faultHeld_quiet _ s
      · dsimp only
        split
        · exact (gather_quiet _ _ _ s).trans (beginOrder_quiet _ _)
        · exact gather_quiet _ _ _ s
    · exact .refl s
  · exact .refl s

theorem answerHeld_quiet (b : Burst) (a : Answer) {f : Held → State → State} (h : ∀ x u, Quiet u (f x u)) (s : State) :
    Quiet s (answerHeld b a f s) := by
  unfold answerHeld
  split
  · exact .refl s
  · split
    · exact .refl s
    · exact .refl s
    · exact tryFinish_quiet s
    · split
      · split
        · exact (reportPaint_quiet _ _ s).trans (tryFinish_quiet _)
        · exact faultHeld_quiet _ s
      · split
        · exact tryFinish_quiet s
        · exact h _ s

theorem answerActive_quiet (b : Burst) (a : Answer) (s : State) : Quiet s (answerActive b a s) :=
  answerHeld_quiet b a (fun _ u => .refl u) s

theorem takeSource_quiet (off : Nat) (d : List Byte) (h : Held) (s : State) : Quiet s (takeSource off d h s) := by
  unfold takeSource
  dsimp only
  split
  · exact (modHeld_quiet _ s).trans (writeRow_quiet _ _)
  · exact modHeld_quiet _ s

theorem answerCopyRead_quiet (b : Burst) (a : Answer) (s : State) : Quiet s (answerCopyRead b a s) := by
  unfold answerCopyRead
  split
  · exact answerHeld_quiet b a (takeSource_quiet _ _) s
  · exact .refl s

theorem rowWritten_quiet (h : Held) (s : State) : Quiet s (rowWritten h s) := by
  unfold rowWritten
  split
  · exact .refl s
  · exact nextRow_quiet h s

theorem answerPixel_quiet (b : Burst) (a : Answer) (s : State) : Quiet s (answerPixel b a s) :=
  answerHeld_quiet b a rowWritten_quiet s

theorem answerStamp_quiet (b : Burst) (a : Answer) (s : State) : Quiet s (answerStamp b a s) :=
  answerHeld_quiet b a (fun _ u => finish_quiet _ u) s

theorem notify_quiet (h : Held) (f : FinalStatus) (s : State) : Quiet s (notify h f s) := by
  unfold notify
  split
  · exact raise_quiet _ s
  · exact .refl s

theorem resumeWalk_quiet (s : State) : Quiet s (resumeWalk s) := by
  unfold resumeWalk
  split
  · exact (modPaint_quiet _ s).trans (readHeadPointer_quiet _ _)
  · exact .refl s

theorem closeOrder_quiet (h : Held) (f : FinalStatus) (a : Answer) (s : State) : Quiet s (closeOrder h f a s) := by
  unfold closeOrder
  split
  · have k : Quiet s (notify h f (releaseHeld s)) := (modPaint_quiet _ s).trans (notify_quiet _ _ _)
    dsimp only
    split
    · exact k.trans (resumeWalk_quiet _)
    · split
      · exact k.trans (halt_quiet _)
      · exact k.trans (readWord_quiet _ _ _)
  · have k : Quiet s (releaseHeld (reportPaint .busFault h.addr s)) := (reportPaint_quiet _ _ s).trans (modPaint_quiet _ _)
    dsimp only
    split
    · exact k.trans (resumeWalk_quiet _)
    · exact k.trans (halt_quiet _)

theorem answerFinal_quiet (b : Burst) (a : Answer) (s : State) : Quiet s (answerFinal b a s) := by
  unfold answerFinal
  split
  · exact .refl s
  · split
    · exact closeOrder_quiet _ _ _ s
    · exact .refl s

theorem answerStatus_quiet (b : Burst) (a : Answer) (s : State) : Quiet s (answerStatus b a s) := by
  unfold answerStatus
  split
  · exact ⟨rfl, rfl, fun _ h => h, rfl, rfl, rfl, List.prefix_rfl, rfl, fun h => h, rfl, rfl, rfl, rfl, rfl, rfl, rfl, rfl,
      fun h => h⟩
  · exact .refl s

theorem answerBurst_mild (b : Burst) (a : Answer) (s : State) : Mild s (answerBurst b a s) := by
  unfold answerBurst
  split
  · exact answerTiming_mild b a s
  · exact (answerDescriptor_quiet b a s).mild
  · exact (answerBody_quiet b a s).mild
  · exact (answerSlotWrite_quiet b a s).mild
  · exact (answerSpan_quiet b a s).mild
  · exact (answerHeadPointer_quiet b a s).mild
  · exact (answerOrderHead_quiet b a s).mild
  · exact (answerRemainder_quiet b a s).mild
  · exact (answerLink_quiet b a s).mild
  · exact (answerTail_quiet b a s).mild
  · exact (answerActive_quiet b a s).mild
  · exact (answerCopyRead_quiet b a s).mild
  · exact (answerPixel_quiet b a s).mild
  · exact (answerStamp_quiet b a s).mild
  · exact (answerFinal_quiet b a s).mild
  · exact (answerStatus_quiet b a s).mild

/-! ### Single steps of the part's own blocks -/

theorem loopHalt_quiet (s : State) : Quiet s (loopHalt s) := by
  unfold loopHalt
  split
  · exact (reportPaint_quiet _ _ s).trans (halt_quiet _)
  · exact .refl s

theorem issueTimedOut_quiet (s : State) : Quiet s (issueTimedOut s) := by
  unfold issueTimedOut
  split
  · exact .refl s
  · split
    · exact tryFinish_quiet s
    · exact .refl s

theorem nudgeEngine_quiet (s : State) : Quiet s (nudgeEngine s) := by
  unfold nudgeEngine
  split
  · exact rereadTail_quiet s
  · exact .refl s

theorem resumeEngine_quiet (s : State) : Quiet s (resumeEngine s) := by
  unfold resumeEngine
  split
  · exact (modPaint_quiet _ s).trans (rereadTail_quiet _)
  · exact raise_quiet _ s

theorem presentRun_mild (b : Bool) (t : OutputTarget) (p : Bool) (s : State) : Mild s (presentRun b t p s) := by
  have q (u : State) : Quiet u (requestPaint p u) := by
    unfold requestPaint
    split
    · exact paintOn_quiet u
    · exact paintOff_quiet u
  unfold presentRun
  split
  · exact (requestOutput_mild _ s).quiet (q _)
  · exact (q s).mild.trans (requestOutput_mild _ _)

end Sys2Proof.Machine
end

