-- ==== Sys2Proof/Laws/Commands.lean ====
section
/-! SUPPORT. What a command can do, said once: which of the part's counters and records it leaves alone. -/

namespace Sys2Proof.Machine

/-- What all but twelve commands leave alone. -/
structure Plain (s t : State) : Prop where
  dirBase : t.regs.dirBase = s.regs.dirBase
  enable : t.regs.enable = s.regs.enable
  events : ∀ i, s.regs.events.getLsbD i = true → t.regs.events.getLsbD i = true
  latch : t.fault.latch = s.fault.latch
  record : t.fault.record = s.fault.record
  later : t.fault.later = s.fault.later
  update : t.writer.update = s.writer.update
  frameCounter : t.scan.frameCounter = s.scan.frameCounter
  underruns : t.fetch.underruns = s.fetch.underruns
  resetHeld : t.resetHeld = s.resetHeld
  pending : t.pending = s.pending
  loader : LoaderWf s.loader → LoaderWf t.loader

/-- The commands that own one of the pieces that `Plain` names. -/
def ownsMore (c : Instr) : Bool :=
  match c with
  | .dirBaseWrite _ | .eventsWrite _ | .eventEnableWrite _ | .registerWriteOther _ _ | .clearFault | .faultReport _
  | .latchPoint | .startOfLine | .statusBlockWrite | .softReset | .powerOnReset | .resetNRelease => true
  | _ => false

theorem Plain.refl (s : State) : Plain s s :=
  ⟨rfl, rfl, fun _ h => h, rfl, rfl, rfl, rfl, rfl, rfl, rfl, rfl, fun h => h⟩

theorem Plain.trans {s t u : State} (h : Plain s t) (k : Plain t u) : Plain s u :=
  ⟨k.dirBase.trans h.dirBase, k.enable.trans h.enable, fun i e => k.events i (h.events i e), k.latch.trans h.latch,
    k.record.trans h.record, k.later.trans h.later, k.update.trans h.update, k.frameCounter.trans h.frameCounter,
    k.underruns.trans h.underruns, k.resetHeld.trans h.resetHeld, k.pending.trans h.pending,
    fun e => k.loader (h.loader e)⟩

theorem Mild.plain {s t : State} (h : Mild s t) : Plain s t :=
  ⟨h.dirBase, h.enable, h.events, h.latch, h.record, h.later, h.update, h.frameCounter, h.underruns, h.resetHeld,
    h.pending, h.loader⟩

theorem Quiet.plain {s t : State} (h : Quiet s t) : Plain s t :=
  h.mild.plain

/-- Only the port changes: which places are outstanding is no concern of `Plain`. -/
theorem modPort_plain (f : Port → Port) (s : State) : Plain s (s.modPort f) :=
  ⟨rfl, rfl, fun _ h => h, rfl, rfl, rfl, rfl, rfl, rfl, rfl, rfl, fun h => h⟩

theorem modWriter_plain {f : Writer → Writer} {s : State} (h : (f s.writer).update = s.writer.update) :
    Plain s (s.modWriter f) :=
  ⟨rfl, rfl, fun _ h => h, rfl, rfl, rfl, h, rfl, rfl, rfl, rfl, fun h => h⟩

theorem respond_plain {k : BurstKind → Bool} {tag : Nat} {r : Response} {f : Burst → Answer → State → State}
    (h : ∀ b a u, Mild u (f b a u)) (s : State) : Plain s (respond k tag r f s) := by
  rcases respond_cases k tag r f s with e | e | ⟨b, a, e⟩ <;> rw [e]
  · exact .refl s
  · exact modPort_plain _ s
  · exact (modPort_plain _ s).trans (h b a _).plain

theorem acceptRun_plain (t : OutputTarget) (p : Bool) (m : FaultMode) (s : State) : Plain s (acceptRun t p m s) := by
  have h : Plain s (setRun t p m s) := ⟨rfl, rfl, fun _ h => h, rfl, rfl, rfl, rfl, rfl, rfl, rfl, rfl, fun h => h⟩
  have k := (presentRun_mild (Config.runOutputFirst s.freeIdx) t p (setRun t p m s)).plain
  have e : Plain (presentRun (Config.runOutputFirst s.freeIdx) t p (setRun t p m s)) (acceptRun t p m s) :=
    ⟨rfl, rfl, fun _ h => h, rfl, rfl, rfl, rfl, rfl, rfl, rfl, rfl, fun h => h⟩
  exact (h.trans k).trans e

theorem writeRun_plain (v : Word) (s : State) : Plain s (writeRun v s) := by
  unfold writeRun
  split
  · exact (raise_quiet _ s).plain
  · split
    · exact (raise_quiet _ s).plain
    · exact acceptRun_plain _ _ _ s

theorem grant_plain (s : State) : Plain s (grant s) := by
  unfold grant
  split
  · exact .refl s
  · rename_i q b _
    have h : Plain s (settleLoader (s.modPort (Port.pop q))) := (modPort_plain _ s).trans (settleLoader_quiet _).plain
    unfold runGranted
    split
    · split
      · exact h
      · exact h.trans (answerBurst_mild _ _ _).plain
    · exact h.trans (modPort_plain _ _)

theorem beginRecord_plain (s : State) : Plain s (beginRecord s) := by
  unfold beginRecord
  split
  · exact (modWriter_plain rfl).trans (modPort_plain _ _)
  · exact .refl s

theorem beginCount_plain (s : State) : Plain s (beginCount s) := by
  unfold beginCount
  split
  · exact (modWriter_plain rfl).trans (modPort_plain _ _)
  · exact .refl s

theorem takeAbandoned_plain (tag : Nat) (s : State) : Plain s (takeAbandoned tag s) := by
  unfold takeAbandoned
  split
  · exact modPort_plain _ s
  · exact .refl s

theorem live_plain {f : State → State} {s t : State} (h : live f s = .next t) (k : Plain s (f s)) : Plain s t := by
  rcases live_cases h with ⟨_, rfl⟩ | ⟨_, rfl⟩
  · exact .refl _
  · exact k

/-! ### The window's offsets -/

theorem hostWrite_dirBase (v : Word) (s : State) : hostWrite 0x04 v s = writeDirBase v s := by
  simp [hostWrite]

theorem hostWrite_run (v : Word) (s : State) : hostWrite 0x08 v s = writeRun v s := by
  simp [hostWrite]

theorem hostWrite_action (v : Word) (s : State) : hostWrite 0x0C v s = writeAction v s := by
  simp [hostWrite]

theorem hostWrite_events (v : Word) (s : State) : hostWrite 0x10 v s = s.modRegs (Regs.clearEvents v) := by
  simp [hostWrite]

theorem hostWrite_enable (v : Word) (s : State) : hostWrite 0x14 v s = s.modRegs (Regs.setEnable v) := by
  simp [hostWrite]

theorem writeAction_nudge (s : State) : writeAction 1 s = nudgeEngine s := by
  simp [writeAction]

theorem writeAction_clearFault (s : State) : writeAction 2 s = clearLatch s := by
  simp [writeAction]

theorem writeAction_resume (s : State) : writeAction 3 s = resumeEngine s := by
  simp [writeAction]

theorem writeAction_softReset (s : State) : writeAction 4 s = resetSoft s := by
  simp [writeAction]

/-- Every command answers a next state: the part never stops. -/
theorem exec_next (c : Instr) (s : State) : ∃ t, exec c s = .next t := by
  cases c <;> exact ⟨_, rfl⟩

/-- What a command leaves alone, unless it is one of the twelve that own a piece of it. -/
theorem exec_plain {c : Instr} {s t : State} (h : exec c s = .next t) (k : ownsMore c = false) : Plain s t := by
  cases c with
  | dirBaseWrite | eventsWrite | eventEnableWrite | registerWriteOther | clearFault | faultReport | latchPoint
  | startOfLine | statusBlockWrite | softReset | powerOnReset | resetNRelease => exact Bool.noConfusion k
  | outputOff | outputPark | outputRun | paintSet | paintClear | faultModeWrite =>
    exact live_plain h (hostWrite_run _ s ▸ writeRun_plain _ s)
  | nudge => exact live_plain h (by rw [hostWrite_action, writeAction_nudge]; exact (nudgeEngine_quiet s).plain)
  | resume => exact live_plain h (by rw [hostWrite_action, writeAction_resume]; exact (resumeEngine_quiet s).plain)
  | lockEvent => exact live_plain h (lockTaken_mild _ s).plain
  | lockTimeout => exact live_plain h (lockExpires_mild s).plain
  | fenceTimedOut => exact live_plain h (issueTimedOut_quiet s).plain
  | frameOpen => exact live_plain h (frameOpens_mild s).plain
  | frameMark => exact live_plain h (pulseMark_mild s).plain
  | timingReadResponse => exact live_plain h (respond_plain answerTiming_mild s)
  | descriptorReadResponse => exact live_plain h (respond_plain (fun b a u => (answerDescriptor_quiet b a u).mild) s)
  | bodyBurstResponse => exact live_plain h (respond_plain (fun b a u => (answerBody_quiet b a u).mild) s)
  | sceneChecksComplete => exact live_plain h (completeChecks_quiet s).plain
  | slotWriteResponse => exact live_plain h (respond_plain (fun b a u => (answerSlotWrite_quiet b a u).mild) s)
  | spanBurstResponse => exact live_plain h (respond_plain (fun b a u => (answerSpan_quiet b a u).mild) s)
  | headPointerReadResponse => exact live_plain h (respond_plain (fun b a u => (answerHeadPointer_quiet b a u).mild) s)
  | orderHeadReadResponse => exact live_plain h (respond_plain (fun b a u => (answerOrderHead_quiet b a u).mild) s)
  | remainderReadResponse => exact live_plain h (respond_plain (fun b a u => (answerRemainder_quiet b a u).mild) s)
  | linkReadResponse => exact live_plain h (respond_plain (fun b a u => (answerLink_quiet b a u).mild) s)
  | tailRereadResponse => exact live_plain h (respond_plain (fun b a u => (answerTail_quiet b a u).mild) s)
  | chainLoop => exact live_plain h (loopHalt_quiet s).plain
  | activeWriteResponse => exact live_plain h (respond_plain (fun b a u => (answerActive_quiet b a u).mild) s)
  | copyReadResponse => exact live_plain h (respond_plain (fun b a u => (answerCopyRead_quiet b a u).mild) s)
  | pixelWriteResponse => exact live_plain h (respond_plain (fun b a u => (answerPixel_quiet b a u).mild) s)
  | stampWriteResponse => exact live_plain h (respond_plain (fun b a u => (answerStamp_quiet b a u).mild) s)
  | finalStatusWriteResponse => exact live_plain h (respond_plain (fun b a u => (answerFinal_quiet b a u).mild) s)
  | errorRecordWrite => exact live_plain h (beginRecord_plain s)
  | countWrite => exact live_plain h (beginCount_plain s)
  | statusWriterResponse => exact live_plain h (respond_plain (fun b a u => (answerStatus_quiet b a u).mild) s)
  | burstGrant => exact live_plain h (grant_plain s)
  | abandonedResponse => exact live_plain h (takeAbandoned_plain _ s)

end Sys2Proof.Machine
end

