-- ==== Sys2Proof/Laws/Paint.lean ====
section
/-! SUPPORT. What a response to an awaited burst does, and what the shared operations of the paint engine come to. -/

namespace Sys2Proof.Machine

/-! ### Awaited bursts -/

/-- A response that fits an awaited burst is handed to the burst's requester. -/
theorem respond_awaited {k : BurstKind → Bool} {tag : Nat} {b : Burst} {s : State} (f : Burst → Answer → State → State)
    (h : Awaits k tag b s) {r : Response} (fit : responseFits b r = true) :
    live (respond k tag r f) s = .next (f b (responseAnswer b r) (freed tag s)) := by
  obtain ⟨hr, hf, hd⟩ := h
  rw [live_running hr, respond_answered f hf fit hd]
  rfl

theorem respond_error {k : BurstKind → Bool} {tag : Nat} {b : Burst} {s : State} (f : Burst → Answer → State → State)
    (h : Awaits k tag b s) : live (respond k tag .error f) s = .next (f b none (freed tag s)) :=
  respond_awaited f h rfl

theorem respond_ok {k : BurstKind → Bool} {tag : Nat} {b : Burst} {s : State} {data : List Byte}
    (f : Burst → Answer → State → State) (h : Awaits k tag b s) (hl : data.length = beatBytes b) :
    live (respond k tag (.ok data) f) s = .next (f b (some (named b data)) (freed tag s)) := by
  refine respond_awaited f h ?_
  simp [responseFits, hl]

/-- A write answers OK without data. -/
theorem respond_written {k : BurstKind → Bool} {tag : Nat} {b : Burst} {s : State} (f : Burst → Answer → State → State)
    (h : Awaits k tag b s) (hw : b.kind.isWrite = true) :
    live (respond k tag (.ok []) f) s = .next (f b (some []) (freed tag s)) := by
  rw [respond_awaited f h (by simp [responseFits, hw])]
  simp [responseAnswer]

/-- The kind of an awaited burst is one of those the response answers. -/
theorem awaits_kind {k : BurstKind → Bool} {tag : Nat} {b : Burst} {s : State} (h : Awaits k tag b s) :
    k b.kind = true := by
  obtain ⟨_, hf, _⟩ := h
  unfold Port.find at hf
  obtain ⟨pl, hp, rfl⟩ := Option.map_eq_some_iff.mp hf
  have := List.find?_some hp
  simp only [Bool.and_eq_true] at this
  exact this.2

/-! ### Writes that wait -/

theorem writeWaits_iff (s : State) : WriteWaits s ↔ orderWritesOpen s = true := by
  unfold WriteWaits orderWritesOpen
  simp only [Bool.or_eq_true, List.any_eq_true, Option.any_eq_true, Bool.and_eq_true, Bool.not_eq_true', beq_iff_eq]

theorem not_writeWaits_iff (s : State) : ¬WriteWaits s ↔ orderWritesOpen s = false := by
  rw [writeWaits_iff, Bool.not_eq_true]

/-- Freeing a place adds no waiting write. -/
theorem orderWritesOpen_freed {tag : Nat} {s : State} (h : orderWritesOpen s = false) :
    orderWritesOpen (freed tag s) = false := by
  rw [← not_writeWaits_iff] at h ⊢
  rintro (k | ⟨pl, k, ka, kq⟩)
  · exact h (Or.inl k)
  · refine h (Or.inr ⟨pl, ?_, ka, kq⟩)
    simp only [freed, modPort_port, Port.free] at k
    exact (Option.filter_eq_some_iff.mp k).1

/-! ### Fences and links -/

theorem serial_iff (a b : Word) : (a == b || newer a b) = true ↔ (a - b).toNat < 2 ^ 31 := by
  simp only [newer, Bool.or_eq_true, beq_iff_eq, Bool.and_eq_true, decide_eq_true_eq]
  constructor
  · rintro (rfl | h)
    · simp
    · exact h.2
  · intro h
    by_cases e : a = b
    · exact .inl e
    · refine .inr ⟨?_, h⟩
      by_contra hc
      have h0 : (a - b).toNat = 0 := by omega
      have : a - b = 0 := BitVec.eq_of_toNat_eq (by simpa using h0)
      exact e (sub_eq_zero.mp this)

theorem fenceTrue_iff (c : Byte) (v : Word) (s : State) : fenceTrue c v s = true ↔ FenceHolds c v s := by
  unfold fenceTrue FenceHolds
  split
  · rename_i h
    rw [Bool.and_eq_true, serial_iff]
    exact ⟨fun k => .inl ⟨h, k⟩, fun k => k.elim And.right fun n => absurd h n.1⟩
  · rename_i h
    rw [serial_iff]
    exact ⟨fun k => .inr ⟨h, k⟩, fun k => k.elim (fun n => absurd n.1 h) And.right⟩

theorem nextOrder_none {w : Word} (h : w.toNat < 8) : nextOrder w = none := by
  simp [nextOrder, h]

theorem nextOrder_some {w : Word} (h : 8 ≤ w.toNat) : nextOrder w = some (w &&& 0xFFFFFFF8) := by
  simp [nextOrder, Nat.not_lt.mpr h]

/-- The bits that the mask of a link keeps. -/
theorem linkMask_bits : ∀ i : Fin 32, (0xFFFFFFF8 : Word).getLsbD i.val = decide (3 ≤ i.val) := by decide

/-- Ignoring the low three bits is rounding down to a multiple of 8. -/
theorem order_toNat (w : Word) : (w &&& 0xFFFFFFF8).toNat = w.toNat / 8 * 8 := by
  have e : w &&& (0xFFFFFFF8 : Word) = (w >>> 3) <<< 3 := by
    refine BitVec.eq_of_getLsbD_eq fun i hi => ?_
    rw [BitVec.getLsbD_and, show BitVec.getLsbD (0xFFFFFFF8 : Word) i = _ from linkMask_bits ⟨i, hi⟩,
      BitVec.getLsbD_shiftLeft, BitVec.getLsbD_ushiftRight]
    rcases Nat.lt_or_ge i 3 with h | h
    · simp [h, Nat.not_le.mpr h]
    · simp [hi, h, Nat.not_lt.mpr h]
  have := w.isLt
  rw [e, BitVec.toNat_shiftLeft, BitVec.toNat_ushiftRight, Nat.shiftRight_eq_div_pow, Nat.shiftLeft_eq]
  omega

/-! ### An order's end -/

/-- An order in RUNNING with no waiting write is closed by its final status. -/
theorem finish_closes {f : FinalStatus} {h : Held} {s : State} (hh : s.paint.held = some h) (hp : h.phase = .running)
    (hw : orderWritesOpen s = false) : finish f s = closingWith f h s := by
  have e : orderWritesOpen (settleFinal f s) = orderWritesOpen s := rfl
  unfold finish tryFinish
  simp only [e, hw]
  simp [settleFinal, modHeld, setEngine, State.modPaint, hh, hp, closingWith, issuePaint, State.modPort, statusWordBurst]

/-- With a write waiting its final status is only decided. -/
theorem finish_waits {f : FinalStatus} {h : Held} {s : State} (hh : s.paint.held = some h)
    (hw : orderWritesOpen s = true) :
    finish f s =
      { s with paint := { s.paint with engine := .executing, held := some { h with decided := some f } } } := by
  have e : orderWritesOpen (settleFinal f s) = orderWritesOpen s := rfl
  unfold finish tryFinish
  simp only [e, hw]
  simp [settleFinal, modHeld, setEngine, State.modPaint, hh]

/-- A decided final status is issued when no write waits. -/
theorem tryFinish_closes {f : FinalStatus} {h : Held} {s : State} (hh : s.paint.held = some h)
    (hp : h.phase = .running ∨ h.phase = .faulted) (hd : h.decided = some f) (hw : orderWritesOpen s = false) :
    tryFinish s = finalIssued f h s := by
  unfold tryFinish
  simp [hh, hd, hw, hp, modHeld, State.modPaint, issuePaint, State.modPort, statusWordBurst, finalIssued]

theorem tryFinish_waits {s : State} (hw : orderWritesOpen s = true) : tryFinish s = s := by
  unfold tryFinish
  split
  · rfl
  · split
    · rfl
    · simp [hw]

/-! ### The reads and writes of an order in RUNNING -/

/-- Each of the four responses to an order's reads and writes comes to `answerHeld`, with a part of its own. -/
theorem running_answered {c : Nat → Response → Instr} {k : BurstKind → Bool} {tag : Nat} {b : Burst} {s : State}
    {r : Response} (hc : (c, k) ∈ runningResponses) (ha : Awaits k tag b s) (fit : responseFits b r = true) :
    ∃ g, exec (c tag r) s = .next (answerHeld b (responseAnswer b r) g (freed tag s)) := by
  have hk := awaits_kind ha
  simp only [runningResponses, List.mem_cons, Prod.mk.injEq, List.not_mem_nil, or_false] at hc
  rcases hc with ⟨rfl, rfl⟩ | ⟨rfl, rfl⟩ | ⟨rfl, rfl⟩ | ⟨rfl, rfl⟩
  · exact ⟨_, respond_awaited answerActive ha fit⟩
  · unfold BurstKind.isCopySrc at hk
    split at hk
    · rename_i off e
      refine ⟨takeSource off ((responseAnswer b r).getD []), (respond_awaited answerCopyRead ha fit).trans ?_⟩
      simp [answerCopyRead, e]
    · cases hk
  · exact ⟨_, respond_awaited answerPixel ha fit⟩
  · exact ⟨_, respond_awaited answerStamp ha fit⟩

/-- An OK for an order whose final status is decided only lets that status be issued. -/
theorem answerHeld_decided {b : Burst} {data : List Byte} {g : Held → State → State} {h : Held} {f : FinalStatus}
    {s : State} (hh : s.paint.held = some h) (hp : h.phase = .running ∨ h.phase = .faulted) (hd : h.decided = some f) :
    answerHeld b (some data) g s = tryFinish s := by
  rcases hp with hp | hp <;> simp [answerHeld, hh, hp, hd]

/-- An order already FAULTED takes any answer as the end of one more write. -/
theorem answerHeld_faulted {b : Burst} {a : Answer} {g : Held → State → State} {h : Held} {s : State}
    (hh : s.paint.held = some h) (hp : h.phase = .faulted) : answerHeld b a g s = tryFinish s := by
  simp [answerHeld, hh, hp]

/-- An ERROR on an order that a PAINT clear has aborted is only reported. -/
theorem answerHeld_aborted {b : Burst} {g : Held → State → State} {h : Held} {s : State} (hh : s.paint.held = some h)
    (hp : h.phase = .running) (ho : h.oldWalk = true) :
    answerHeld b none g s = tryFinish (reportPaint .busFault b.addr s) := by
  simp [answerHeld, hh, hp, ho]

end Sys2Proof.Machine
end

