-- ==== Sys2Proof/Laws/Window.lean ====
section
/-! SUPPORT. What the paint engine's operations leave alone, and what an accepted RUN write comes to. -/

namespace Sys2Proof.Machine

/-- `t` differs from `s` at most in the paint engine, in the bursts it presents, and in which granted reads are marked
dropped. -/
structure PaintOnly (s t : State) : Prop where
  regs : t.regs = s.regs
  loader : t.loader = s.loader
  scan : t.scan = s.scan
  comp : t.comp = s.comp
  fetch : t.fetch = s.fetch
  fault : t.fault = s.fault
  writer : t.writer = s.writer
  resetHeld : t.resetHeld = s.resetHeld
  freeIdx : t.freeIdx = s.freeIdx
  pending : t.pending = s.pending
  pfetch : t.port.fetch = s.port.fetch
  ploader : t.port.loader = s.port.loader
  pstatus : t.port.status = s.port.status
  pwrite : t.port.write = s.port.write

theorem PaintOnly.refl (s : State) : PaintOnly s s :=
  ⟨rfl, rfl, rfl, rfl, rfl, rfl, rfl, rfl, rfl, rfl, rfl, rfl, rfl, rfl⟩

theorem PaintOnly.trans {s t u : State} (h : PaintOnly s t) (k : PaintOnly t u) : PaintOnly s u :=
  ⟨k.regs.trans h.regs, k.loader.trans h.loader, k.scan.trans h.scan, k.comp.trans h.comp, k.fetch.trans h.fetch,
    k.fault.trans h.fault, k.writer.trans h.writer, k.resetHeld.trans h.resetHeld, k.freeIdx.trans h.freeIdx,
    k.pending.trans h.pending, k.pfetch.trans h.pfetch, k.ploader.trans h.ploader, k.pstatus.trans h.pstatus,
    k.pwrite.trans h.pwrite⟩

theorem modPaint_paintOnly (f : Paint → Paint) (s : State) : PaintOnly s (s.modPaint f) :=
  ⟨rfl, rfl, rfl, rfl, rfl, rfl, rfl, rfl, rfl, rfl, rfl, rfl, rfl, rfl⟩

theorem issuePaint_paintOnly (bs : List Burst) (s : State) : PaintOnly s (issuePaint bs s) :=
  ⟨rfl, rfl, rfl, rfl, rfl, rfl, rfl, rfl, rfl, rfl, rfl, rfl, rfl, rfl⟩

theorem withdrawPaint_paintOnly (s : State) : PaintOnly s (withdrawPaint s) :=
  ⟨rfl, rfl, rfl, rfl, rfl, rfl, rfl, rfl, rfl, rfl, rfl, rfl, rfl, rfl⟩

theorem tryFinish_paintOnly (s : State) : PaintOnly s (tryFinish s) := by
  unfold tryFinish
  split
  · exact .refl s
  · split
    · exact .refl s
    · split
      · exact (modPaint_paintOnly _ _).trans (issuePaint_paintOnly _ _)
      · exact .refl s

theorem settleFinal_paintOnly (f : FinalStatus) (s : State) : PaintOnly s (settleFinal f s) :=
  ⟨rfl, rfl, rfl, rfl, rfl, rfl, rfl, rfl, rfl, rfl, rfl, rfl, rfl, rfl⟩

theorem finish_paintOnly (f : FinalStatus) (s : State) : PaintOnly s (finish f s) :=
  (settleFinal_paintOnly f s).trans (tryFinish_paintOnly _)

theorem startRow_paintOnly (s : State) : PaintOnly s (startRow s) := by
  unfold startRow
  split
  · exact .refl s
  · split
    · exact (modPaint_paintOnly _ _).trans (issuePaint_paintOnly _ _)
    · exact issuePaint_paintOnly _ _
    all_goals exact .refl s

theorem retestHold_paintOnly (s : State) : PaintOnly s (retestHold s) := by
  unfold retestHold
  split
  · split
    · exact .refl s
    · split
      · exact .refl s
      · exact (modPaint_paintOnly _ _).trans (startRow_paintOnly _)
  · exact .refl s

theorem endFenceAtOff_paintOnly (s : State) : PaintOnly s (endFenceAtOff s) := by
  unfold endFenceAtOff
  split
  · exact finish_paintOnly _ _
  · exact .refl s

theorem rereadTail_paintOnly (s : State) : PaintOnly s (rereadTail s) := by
  unfold rereadTail
  split <;> exact (modPaint_paintOnly _ _).trans (issuePaint_paintOnly _ _)

theorem testFence_paintOnly (s : State) : PaintOnly s (testFence s) := by
  unfold testFence
  split
  · split
    · split
      · exact finish_paintOnly _ _
      · exact .refl s
    · exact .refl s
  · exact .refl s

theorem latchPaint_paintOnly (c : Bool) (s : State) : PaintOnly s (latchPaint c s) := by
  unfold latchPaint
  split
  · exact rereadTail_paintOnly s
  · split
    · unfold latchFence
      split
      · split
        · exact finish_paintOnly _ _
        · split
          · dsimp only
            split
            · exact (modPaint_paintOnly _ _).trans (settleFinal_paintOnly _ _)
            · exact modPaint_paintOnly _ _
          · exact .refl s
      · exact .refl s
    · exact .refl s

theorem clearHeld_paintOnly (h : Held) (s : State) : PaintOnly s (clearHeld h s) := by
  unfold clearHeld
  split
  · exact modPaint_paintOnly _ _
  · exact (modPaint_paintOnly _ _).trans (tryFinish_paintOnly _)
  · exact modPaint_paintOnly _ _
  · exact modPaint_paintOnly _ _

theorem paintOff_paintOnly (s : State) : PaintOnly s (paintOff s) := by
  unfold paintOff
  split
  · exact .refl s
  · dsimp only
    split
    · exact (modPaint_paintOnly _ _).trans (withdrawPaint_paintOnly _)
    · exact ((modPaint_paintOnly _ _).trans (withdrawPaint_paintOnly _)).trans (clearHeld_paintOnly _ _)

/-- `PaintOnly`, but for a status block that may have been asked for. -/
structure PaintAsk (s t : State) : Prop where
  regs : t.regs = s.regs
  loader : t.loader = s.loader
  scan : t.scan = s.scan
  comp : t.comp = s.comp
  fetch : t.fetch = s.fetch
  fault : t.fault = s.fault
  writer : t.writer = s.writer ∨ t.writer = { s.writer with wantBlock := true }
  resetHeld : t.resetHeld = s.resetHeld
  freeIdx : t.freeIdx = s.freeIdx
  pending : t.pending = s.pending
  pfetch : t.port.fetch = s.port.fetch
  ploader : t.port.loader = s.port.loader
  pstatus : t.port.status = s.port.status
  pwrite : t.port.write = s.port.write

theorem PaintOnly.ask {s t : State} (h : PaintOnly s t) : PaintAsk s t :=
  ⟨h.regs, h.loader, h.scan, h.comp, h.fetch, h.fault, .inl h.writer, h.resetHeld, h.freeIdx, h.pending, h.pfetch,
    h.ploader, h.pstatus, h.pwrite⟩

theorem setChainPos_paintAsk (a : Word) (s : State) : PaintAsk s (setChainPos a s) := by
  unfold setChainPos
  dsimp only
  split
  · exact (modPaint_paintOnly _ s).ask
  · exact ⟨rfl, rfl, rfl, rfl, rfl, rfl, .inr rfl, rfl, rfl, rfl, rfl, rfl, rfl, rfl⟩

theorem paintOn_paintAsk (s : State) : PaintAsk s (paintOn s) := by
  unfold paintOn
  split
  · have h := setChainPos_paintAsk 0 (s.modPaint fun p => { p with engine := .loading, passedOver := 0 })
    dsimp only
    split <;>
      exact ⟨h.regs, h.loader, h.scan, h.comp, h.fetch, h.fault, h.writer, h.resetHeld, h.freeIdx, h.pending, h.pfetch,
        h.ploader, h.pstatus, h.pwrite⟩
  · exact (PaintOnly.refl s).ask

theorem requestPaint_paintAsk (p : Bool) (s : State) : PaintAsk s (requestPaint p s) := by
  unfold requestPaint
  split
  · exact paintOn_paintAsk s
  · exact (paintOff_paintOnly s).ask

/-! ### Registers under an output request -/

theorem settleLoader_regs (s : State) : (settleLoader s).regs = s.regs := by
  unfold settleLoader
  split <;> rfl

theorem askOffBlock_regs (shown : Option Slot) (s : State) : (askOffBlock shown s).regs = s.regs := by
  unfold askOffBlock
  split <;> rfl

theorem enterOff_regs (s : State) : (enterOff s).regs = s.regs := by
  unfold enterOff
  rw [(retestHold_paintOnly _).regs, (endFenceAtOff_paintOnly _).regs, askOffBlock_regs]
  exact settleLoader_regs _

/-- An output request writes no register but EVENTS. -/
theorem requestOutput_regs (t : OutputTarget) (s : State) :
    (requestOutput t s).regs = { s.regs with events := (requestOutput t s).regs.events } := by
  cases t
  · simp only [requestOutput, requestOff]
    split
    · rfl
    all_goals rw [enterOff_regs]
  · simp only [requestOutput, requestPark]
    split <;> rfl
  · simp only [requestOutput, requestRun]
    split <;> rfl

theorem presentRun_regs (b : Bool) (t : OutputTarget) (p : Bool) (s : State) :
    (presentRun b t p s).regs = { s.regs with events := (presentRun b t p s).regs.events } := by
  unfold presentRun
  split
  · rw [(requestPaint_paintAsk _ _).regs]
    exact requestOutput_regs _ _
  · have := requestOutput_regs t (requestPaint p s)
    rw [(requestPaint_paintAsk _ _).regs] at this
    exact this

/-! ### The value written to RUN -/

theorem withOutput_field (v : Word) (t : OutputTarget) : runOutputField (withOutput v t) = some t := by
  have : (withOutput v t).extractLsb' 0 2 = BitVec.ofNat 2 t.toNat := by
    apply BitVec.eq_of_getLsbD_eq
    intro i hi
    have : i = 0 ∨ i = 1 := by omega
    rcases this with rfl | rfl <;> cases t <;> simp [withOutput, OutputTarget.toNat]
  unfold runOutputField
  rw [this]
  cases t <;> rfl

theorem withOutput_paint (v : Word) (t : OutputTarget) : runPaintField (withOutput v t) = v.getLsbD 4 := by
  cases t <;> simp [runPaintField, withOutput, OutputTarget.toNat]

theorem withOutput_mode (v : Word) (t : OutputTarget) : runModeField (withOutput v t) = runModeField v := by
  cases t <;> simp [runModeField, withOutput, OutputTarget.toNat]

theorem withPaint_field (v : Word) (p : Bool) : runOutputField (withPaint v p) = runOutputField v := by
  have : (withPaint v p).extractLsb' 0 2 = v.extractLsb' 0 2 := by
    apply BitVec.eq_of_getLsbD_eq
    intro i hi
    have : i = 0 ∨ i = 1 := by omega
    rcases this with rfl | rfl <;> cases p <;> simp [withPaint]
  unfold runOutputField
  rw [this]

theorem withPaint_paint (v : Word) (p : Bool) : runPaintField (withPaint v p) = p := by
  cases p <;> simp [runPaintField, withPaint]

theorem withPaint_mode (v : Word) (p : Bool) : runModeField (withPaint v p) = runModeField v := by
  cases p <;> simp [runModeField, withPaint]

/-- A RUN write that is allowed is accepted whole. -/
theorem writeRun_accepted {v : Word} {t : OutputTarget} {p : Bool} {m : FaultMode} {s : State}
    (h1 : runOutputField v = some t) (h2 : runPaintField v = p) (h3 : runModeField v = m) (ha : RunAllowed t p s) :
    writeRun v s = acceptRun t p m s := by
  simp only [writeRun, h1, h2, h3]
  rw [if_neg]
  simp only [runNeedsBase, Bool.and_eq_true, beq_iff_eq, not_and, Bool.or_eq_true, bne_iff_ne, ne_eq]
  intro hb
  rcases ha with h | ⟨rfl, rfl⟩
  · exact absurd hb h
  · simp

theorem hostWrite_run_accepted {w : Word} {t : OutputTarget} {p : Bool} {m : FaultMode} {s : State}
    (hr : s.resetHeld = false) (h1 : runOutputField w = some t) (h2 : runPaintField w = p) (h3 : runModeField w = m)
    (ha : RunAllowed t p s) : live (hostWrite 0x08 w) s = .next (acceptRun t p m s) :=
  (live_running (f := hostWrite 0x08 w) hr).trans (by rw [hostWrite_run, writeRun_accepted h1 h2 h3 ha])

/-- An accepted RUN write sets the fields and presents the two requests, in one order or the other (log entry 3). -/
theorem acceptRun_cases (t : OutputTarget) (p : Bool) (m : FaultMode) (s : State) :
    ∃ b, acceptRun t p m s = { presentRun b t p (setRun t p m s) with freeIdx := s.freeIdx + 1 } :=
  ⟨_, rfl⟩

/-! ### What changes the engine and its presented bursts alone -/

/-- `t` differs from `s` at most in the paint engine and in the bursts it presents. -/
def PaintIssues (s t : State) : Prop :=
  ∃ p bs, t = { s with paint := p, port := { s.port with paint := bs } }

theorem PaintIssues.eq {s t : State} (h : PaintIssues s t) :
    t = { s with paint := t.paint, port := { s.port with paint := t.port.paint } } := by
  obtain ⟨p, bs, rfl⟩ := h
  rfl

theorem PaintIssues.refl (s : State) : PaintIssues s s :=
  ⟨s.paint, s.port.paint, rfl⟩

theorem PaintIssues.trans {s t u : State} (h : PaintIssues s t) (k : PaintIssues t u) : PaintIssues s u := by
  obtain ⟨p, bs, rfl⟩ := h
  obtain ⟨q, cs, rfl⟩ := k
  exact ⟨q, cs, rfl⟩

theorem modPaint_issues (f : Paint → Paint) (s : State) : PaintIssues s (s.modPaint f) :=
  ⟨_, _, rfl⟩

theorem issuePaint_issues (bs : List Burst) (s : State) : PaintIssues s (issuePaint bs s) :=
  ⟨_, _, rfl⟩

theorem tryFinish_issues (s : State) : PaintIssues s (tryFinish s) := by
  unfold tryFinish
  split
  · exact .refl s
  · split
    · exact .refl s
    · split
      · exact (modPaint_issues _ _).trans (issuePaint_issues _ _)
      · exact .refl s

theorem settleFinal_issues (f : FinalStatus) (s : State) : PaintIssues s (settleFinal f s) :=
  ⟨_, _, rfl⟩

theorem finish_issues (f : FinalStatus) (s : State) : PaintIssues s (finish f s) :=
  (settleFinal_issues f s).trans (tryFinish_issues _)

theorem startRow_issues (s : State) : PaintIssues s (startRow s) := by
  unfold startRow
  split
  · exact .refl s
  · split <;> first
      | exact .refl s
      | exact issuePaint_issues _ s
      | exact (modPaint_issues _ s).trans (issuePaint_issues _ _)

theorem rereadTail_issues (s : State) : PaintIssues s (rereadTail s) := by
  unfold rereadTail
  split <;> exact (modPaint_issues _ s).trans (issuePaint_issues _ _)

theorem latchPaint_issues (counted : Bool) (s : State) : PaintIssues s (latchPaint counted s) := by
  unfold latchPaint latchFence
  repeat' split
  all_goals first
    | exact .refl s
    | exact rereadTail_issues s
    | exact finish_issues _ s
    | exact modPaint_issues _ s
    | exact (modPaint_issues _ s).trans (settleFinal_issues _ _)

theorem testFence_issues (s : State) : PaintIssues s (testFence s) := by
  unfold testFence
  repeat' split
  all_goals first
    | exact .refl s
    | exact finish_issues _ s

theorem endFenceAtOff_issues (s : State) : PaintIssues s (endFenceAtOff s) := by
  unfold endFenceAtOff
  split
  · exact finish_issues _ s
  · exact .refl s

theorem retestHold_issues (s : State) : PaintIssues s (retestHold s) := by
  unfold retestHold
  repeat' split
  all_goals first
    | exact .refl s
    | exact (modPaint_issues _ s).trans (startRow_issues _)

/-! ### The port's reads under a PAINT request -/

theorem tryFinish_reads (s : State) : (tryFinish s).port.reads = s.port.reads := by
  unfold tryFinish
  split
  · rfl
  · split
    · rfl
    · split <;> rfl

theorem clearHeld_reads (h : Held) (s : State) : (clearHeld h s).port.reads = s.port.reads := by
  unfold clearHeld
  split
  · rfl
  · exact tryFinish_reads _
  · rfl
  · rfl

theorem paintOff_reads {s : State} (h : s.paint.engine ≠ .stopped) :
    (paintOff s).port.reads =
      s.port.reads.map fun pl =>
        if pl.burst.kind.requester == .paint then { pl with burst := pl.burst.drop } else pl := by
  unfold paintOff
  rw [if_neg h]
  dsimp only
  split
  · rfl
  · rw [clearHeld_reads]
    rfl

theorem paintOn_reads (s : State) : (paintOn s).port.reads = s.port.reads := by
  unfold paintOn
  split
  · have h : (setChainPos 0 (s.modPaint fun p => { p with engine := .loading, passedOver := 0 })).port.reads =
        s.port.reads := by
      unfold setChainPos
      dsimp only
      split <;> rfl
    dsimp only
    split <;> exact h
  · rfl

end Sys2Proof.Machine
end

