-- ==== Sys2Proof/Laws/Lines.lean ====
section
/-! SUPPORT. What the operations of a line start, a latch point and a frame open come to, block by block. -/

namespace Sys2Proof.Machine

/-! ### Loads -/

theorem beginLoad_frame (s : State) :
    (beginLoad s).scan = s.scan ∧ (beginLoad s).regs = s.regs ∧ (beginLoad s).comp = s.comp ∧
      (beginLoad s).fetch = s.fetch ∧ (beginLoad s).fault = s.fault ∧ (beginLoad s).writer = s.writer ∧
      (beginLoad s).paint = s.paint := by
  unfold beginLoad
  split <;> exact ⟨rfl, rfl, rfl, rfl, rfl, rfl, rfl⟩

/-- R8: a load changes the scene loader and the bursts of its place alone. -/
theorem beginLoad_eq (s : State) :
    beginLoad s = { s with loader := (beginLoad s).loader, port := { s.port with loader := (beginLoad s).port.loader } } := by
  unfold beginLoad
  split <;> rfl

/-- R8: in RUNNING, a load begins under the conditions of the rule and not otherwise. `s` may differ from `g` in the
blocks that no condition reads. -/
theorem beginLoad_loads {s g : State} (hl : g.loader = s.loader) (hp : g.port.loader = s.port.loader)
    (hf : g.fault = s.fault) (hm : g.regs.runMode = s.regs.runMode) (hd : g.regs.dirBase = s.regs.dirBase)
    (ho : g.scan.output = .running) : LoadsIfAllowed s (beginLoad g) := by
  have hla : loadAllowed g = true ↔ MayLoad s := by
    simp only [loadAllowed, MayLoad, hl, hf, hm, ho, Bool.and_eq_true, Bool.or_eq_true, beq_iff_eq, decide_eq_true_eq,
      Option.isNone_iff_eq_none, Bool.not_eq_true']
    tauto
  refine ⟨fun h => ?_, fun h => ?_⟩
  · have := hla.mpr h
    unfold beginLoad
    rw [if_pos this]
    refine ⟨?_, ?_⟩
    · have hn : (slotsToRead g).length = if s.loader.shownSlot = none then 4 else 3 := by
        unfold slotsToRead allSlots
        rw [hl]
        rcases s.loader.shownSlot with _ | n
        · rfl
        · fin_cases n <;> rfl
      rw [← hl] at hn ⊢
      rw [← hn]
      rfl
    · show g.port.loader ++ _ = _
      rw [hp]
      congr 1
      unfold slotsToRead allSlots descriptorBurst controlAddr
      rw [hl, hd]
      simp only [bne, ← Nat.add_assoc]
      congr 1
      apply List.filter_congr
      intro x _
      rw [Bool.eq_iff_iff]
      simp
  · have : ¬loadAllowed g = true := fun k => h (hla.mp k)
    unfold beginLoad
    rw [if_neg this]
    exact ⟨hl, hp⟩

/-! ### The engine at a latch point -/

theorem latchPaint_tail {c : Bool} {s : State} (h : s.paint.engine = .atTail) :
    (latchPaint c s).paint.engine = .loading := by
  unfold latchPaint rereadTail
  rw [if_pos h]
  split <;> rfl

theorem latchPaint_other {c : Bool} {s : State} (h : s.paint.engine ≠ .atTail) (k : s.paint.engine ≠ .waiting) :
    latchPaint c s = s := by
  unfold latchPaint
  rw [if_neg h, if_neg k]

/-! ### The line store -/

theorem endFetch_frame (s : State) :
    (endFetch s).scan = s.scan ∧ (endFetch s).loader = s.loader ∧ (endFetch s).paint = s.paint ∧
      (endFetch s).fault = s.fault ∧ (endFetch s).writer = s.writer ∧ (endFetch s).comp = s.comp := by
  unfold endFetch
  dsimp only
  split <;> exact ⟨rfl, rfl, rfl, rfl, rfl, rfl⟩

/-- R100, R102: the banks exchange roles, a late line is counted and raises UNDERRUN, and nothing stays presented. -/
theorem endFetch_spec {late : Bool} {s : State}
    (h : late = (s.fetch.active.isSome && s.fetch.filling.any fun sp => sp.status == .waiting)) :
    (endFetch s).fetch =
        { active := none, filling := s.fetch.reading, reading := s.fetch.filling,
          underruns := if late then bumpUnderruns s.fetch.underruns else s.fetch.underruns } ∧
      (endFetch s).regs = (if late = true then { s.regs with events := s.regs.events ||| 0x008 } else s.regs) ∧
      (endFetch s).port.fetch = [] := by
  unfold endFetch
  dsimp only
  rw [← h]
  cases late <;> exact ⟨rfl, rfl, rfl⟩

/-- R73, R95: what forming a line's list leaves alone, and that with no slot shown it does nothing. -/
theorem formLine_frame (w y : Nat) (s : State) :
    (formLine w y s).scan = s.scan ∧ (formLine w y s).loader = s.loader ∧ (formLine w y s).paint = s.paint ∧
      (formLine w y s).fault = s.fault ∧ (formLine w y s).writer = s.writer ∧ (formLine w y s).regs = s.regs ∧
      (formLine w y s).comp = { s.comp with coming := (formLine w y s).comp.coming } ∧
      (formLine w y s).fetch.reading = s.fetch.reading ∧ (formLine w y s).fetch.underruns = s.fetch.underruns ∧
      (formLine w y s).port.loader = s.port.loader ∧
      (s.loader.shownSlot.isSome = true → (formLine w y s).fetch.active = some y) ∧
      (s.loader.shownSlot = none → formLine w y s = s) := by
  unfold formLine
  split
  · rename_i h
    refine ⟨rfl, rfl, rfl, rfl, rfl, rfl, rfl, rfl, rfl, rfl, fun _ => rfl, fun k => ?_⟩
    rw [k] at h
    cases h
  · rename_i h
    exact ⟨rfl, rfl, rfl, rfl, rfl, rfl, rfl, rfl, rfl, rfl, fun k => absurd k h, fun _ => rfl⟩

theorem composeLine_frame (t : Timing) (n : Nat) (s : State) :
    (composeLine t n s).scan = s.scan ∧ (composeLine t n s).loader = s.loader ∧ (composeLine t n s).paint = s.paint ∧
      (composeLine t n s).fault = s.fault ∧ (composeLine t n s).writer = s.writer := by
  unfold composeLine
  obtain ⟨e1, e2, e3, e4, e5, _⟩ := endFetch_frame s
  split
  · dsimp only
    split
    · obtain ⟨f1, f2, f3, f4, f5, _⟩ := formLine_frame t.w (n + 1) (takeList (endFetch s))
      exact ⟨f1.trans e1, f2.trans e2, f3.trans e3, f4.trans e4, f5.trans e5⟩
    · exact ⟨e1, e2, e3, e4, e5⟩
  · exact ⟨rfl, rfl, rfl, rfl, rfl⟩

/-- R73, R74: the positions of the coming list, in ascending order. -/
theorem comingList_positions (s : State) (w y : Nat) :
    (comingList s w y).map Listed.pos =
      (List.range s.loader.shownTable.length).filter fun i => (s.loader.shownTable[i]?).any fun x => x.covers y := by
  have key : ∀ (l : List Window) (k : Nat),
      ((l.zipIdx k).filter fun p => p.1.covers y).map Prod.snd =
        (List.range' k l.length).filter fun i => (l[i - k]?).any fun x => x.covers y := by
    intro l
    induction l with
    | nil => intro k; rfl
    | cons a l ih =>
      intro k
      rw [List.zipIdx_cons, List.length_cons, List.range'_succ, List.filter_cons, List.filter_cons]
      have hk : ((a :: l)[k - k]?).any (fun x => x.covers y) = a.covers y := by simp
      have ht : ((l.zipIdx (k + 1)).filter fun p => p.1.covers y).map Prod.snd =
          (List.range' (k + 1) l.length).filter fun i => ((a :: l)[i - k]?).any fun x => x.covers y := by
        rw [ih]
        apply List.filter_congr
        intro x hx
        have : k + 1 ≤ x := (List.mem_range'_1.mp hx).1
        have e : x - k = (x - (k + 1)) + 1 := by omega
        rw [e, List.getElem?_cons_succ]
      rw [hk]
      split
      · rw [List.map_cons, ht]
      · exact ht
  unfold comingList
  rw [List.map_map]
  have e : (Listed.pos ∘ fun p : Window × Nat => listWindow s w y p.2 p.1) = Prod.snd := rfl
  rw [e, key s.loader.shownTable 0, List.range_eq_range']
  rfl

theorem covers_iff (y : Nat) (w : Window) :
    w.covers y = (decide (w.dst.y ≤ y) && decide (y ≤ w.dst.y + w.dst.h - 1) && w.dst.h != 0) := by
  unfold Window.covers
  rw [Bool.eq_iff_iff]
  simp only [Bool.and_eq_true, decide_eq_true_eq, bne_iff_ne]
  omega

/-- R65: the line start of a frame being sent, every event of the line before having been taken. -/
theorem lineStart_taken {t : Timing} {lp : LinePos} {n : Nat} {s : State} (ho : s.scan.output.sends = true)
    (ht : s.scan.timing = some t) (hl : s.scan.line = some lp) (h1 : lp.latchDue = false) (h2 : lp.openDue = false)
    (h3 : s.scan.mark ≠ some 0) (hn : n = (if lp.line + 1 < t.h + t.v then lp.line + 1 else 0)) :
    lineStart s = composeLine t n (scanLine t n s) := by
  have hs : scanning s = true := ho
  have hm : (s.scan.mark != some 0) = true := by simpa using h3
  have hn' : nextLine t lp.line = n := by rw [hn]; rfl
  simp only [lineStart, ht, hl, hs, lineDone, h1, h2, hm, Bool.not_false, Bool.and_true, if_true, hn']

/-! ### The frame open -/

/-- R18, R63, log entry 25: the first burst of the loader's place, presented, is issued; a status block is asked for where
it is a write that asks for one. -/
theorem settleLoader_spec (s : State) :
    settleLoader s =
      { s with
        writer := if s.port.loader.head?.any Burst.asks then { s.writer with wantBlock := true } else s.writer
        port := { s.port with loader := firstIssued s.port.loader } } := by
  obtain ⟨regs, loader, scan, comp, fetch, paint, fault, writer, ⟨pf, pl, ps, pp, pr, pw, pe⟩, rh, fi, pend⟩ := s
  cases pl with
  | nil => rfl
  | cons b rest =>
    obtain ⟨kind, addr, len, data, beyond, dropped⟩ := b
    cases kind with
    | slotWrite n seq asks => cases asks <;> rfl
    | _ => rfl

theorem settleLoader_frame (s : State) :
    (settleLoader s).scan = s.scan ∧ (settleLoader s).loader = s.loader ∧ (settleLoader s).paint = s.paint ∧
      (settleLoader s).fault = s.fault ∧ (settleLoader s).regs = s.regs ∧ (settleLoader s).comp = s.comp ∧
      (settleLoader s).fetch = s.fetch ∧ (settleLoader s).port.loader.map unasked = s.port.loader.map unasked := by
  unfold settleLoader
  split
  · rename_i h
    refine ⟨rfl, rfl, rfl, rfl, rfl, rfl, rfl, ?_⟩
    rw [h]
    rfl
  · exact ⟨rfl, rfl, rfl, rfl, rfl, rfl, rfl, rfl⟩

theorem frameOpens_taken {t : Timing} {lp : LinePos} {s : State} (ho : s.scan.output.sends = true)
    (ht : s.scan.timing = some t) (hl : s.scan.line = some lp) (h1 : lp.latchDue = false) (h2 : lp.openDue = true) :
    frameOpens s = openFrame t lp s := by
  have hs : scanning s = true := ho
  simp only [frameOpens, ht, hl, hs, h1, h2, Bool.not_false, Bool.and_true, if_true]

end Sys2Proof.Machine
end

