-- ==== Sys2Proof/Laws/Fetch.lean ====
section
/-! SUPPORT. What forming the list of a line and beginning its fetch come to (R73 to R75, R82 to R85, R95 to R98). -/

namespace Sys2Proof.Machine

/-! ### Source addressing and motion -/

/-- A ring position, as the non-negative remainder that the rules give. -/
theorem ringMod_eq (a : Int) {n : Nat} (h : n ≠ 0) : (ringMod a n : Int) = a % n :=
  Int.toNat_of_nonneg (Int.emod_nonneg a (by omega))

theorem ringMod_lt (a : Int) {n : Nat} (h : n ≠ 0) : ringMod a n < n := by
  have := ringMod_eq a h
  have := Int.emod_lt_of_pos a (b := (n : Int)) (by omega)
  omega

theorem sourceRow_reads (dst : Rect) (sf : Surface) (o : Option Offset) (y : Nat) :
    ReadsRow dst sf o y (sourceRow dst sf o y) := by
  refine ⟨fun h => by simp [sourceRow, h], fun r off h ho hz => ?_⟩
  simp only [sourceRow, h, ho, Nat.cast_add, ringMod_eq _ hz]

theorem sourceCol_reads (dst : Rect) (sf : Surface) (o : Option Offset) (x : Nat) :
    ReadsCol dst sf o x (sourceCol dst sf o x) := by
  refine ⟨fun h => by simp [sourceCol, h], fun r off h ho hz => ?_⟩
  simp only [sourceCol, h, ho, Nat.cast_add, ringMod_eq _ hz]

theorem startOffset_starts (w : Window) : StartsAt w (startOffset w) := by
  intro sf h
  unfold startOffset
  rw [h]
  dsimp only
  refine ⟨fun k => by simp [k], fun k => ?_⟩
  rw [if_pos (Option.isSome_iff_ne_none.mpr k)]

theorem advanceOffset_advances (w : Window) (o : Option Offset) : Advances w o (advanceOffset w o) := by
  unfold advanceOffset
  refine ⟨fun h => ?_, fun sf r m off hc hr hm ho hw hh => ?_⟩
  · split
    · rfl
    · rename_i sf e
      rw [h sf e]
      split
      · simp_all
      · rfl
  · rw [hc]
    dsimp only
    rw [hr, hm, ho]
    exact ⟨_, rfl, by simp only [Nat.cast_add, ringMod_eq _ hw], by simp only [Nat.cast_add, ringMod_eq _ hh]⟩

/-! ### The list of a line -/

theorem mem_comingList {l : Listed} {s : State} {w y : Nat} (h : l ∈ comingList s w y) :
    ∃ x, s.loader.shownTable[l.pos]? = some x ∧ x.covers y = true ∧ l = listWindow s w y l.pos x := by
  unfold comingList at h
  obtain ⟨p, hp, rfl⟩ := List.mem_map.mp h
  obtain ⟨hm, hc⟩ := List.mem_filter.mp hp
  exact ⟨p.1, (List.mem_zipIdx_iff_getElem?.mp hm), hc, rfl⟩

theorem clippedCount_spec (dst : Rect) (w c : Nat) :
    (dst.x ≤ c ∧ c < dst.x + clippedCount dst w) ↔ (dst.x ≤ c ∧ c < dst.x + dst.w ∧ c < w) := by
  unfold clippedCount
  split <;> omega

/-- R73, R74, R75: the coming list formed for line `y` is the line's. -/
theorem comingList_lists {w y : Nat} {s u : State} (hc : u.comp.coming = comingList s w y)
    (hl : u.loader.shownTable = s.loader.shownTable) (ho : u.comp.offsets = s.comp.offsets)
    (hf : u.comp.flags = s.comp.flags) : ListsLine w y u where
  ascending := by
    rw [hc, comingList_positions]
    exact List.pairwise_lt_range.filter _
  windows i := by
    rw [hc, comingList_positions, hl, List.mem_filter, List.mem_range]
    constructor
    · rintro ⟨_, h⟩
      obtain ⟨x, hx, k⟩ := Option.any_eq_true _ _ |>.mp h
      refine ⟨x, hx, ?_⟩
      simpa [Window.covers, OnLine] using k
    · rintro ⟨x, hx, k⟩
      refine ⟨(List.getElem?_eq_some_iff.mp hx).1, ?_⟩
      rw [hx]
      simpa [Window.covers, OnLine] using k
  columns l h x hx := by
    rw [hc] at h
    obtain ⟨x', hx', _, e⟩ := mem_comingList h
    rw [hl] at hx
    obtain rfl : x = x' := Option.some.inj (hx.symm.trans hx')
    have e1 : l.first = x.dst.x := by rw [e]; rfl
    have e2 : l.count = clippedCount x.dst w := by rw [e]; rfl
    refine ⟨e1, fun c => ?_⟩
    rw [e1, e2]
    exact clippedCount_spec x.dst w c
  rows l h x sf hx hs := by
    rw [hc] at h
    obtain ⟨x', hx', _, e⟩ := mem_comingList h
    rw [hl] at hx
    obtain rfl : x = x' := Option.some.inj (hx.symm.trans hx')
    have e1 : l.row = sourceRow x.dst sf (s.comp.offsets.getD l.pos none) y := by
      rw [e]
      simp only [listWindow, hs]
    rw [ho, e1]
    exact sourceRow_reads _ _ _ _
  marks l h := by
    rw [hc] at h
    obtain ⟨x', _, _, e⟩ := mem_comingList h
    have e1 : l.mark = s.comp.flags.toList.getD l.pos false := by rw [e]; rfl
    rw [e1, hf, List.getD_eq_getElem?_getD]
    rcases s.comp.flags.toList[l.pos]? with _ | b
    · rfl
    · cases b <;> rfl

/-! ### The pieces of a span and their bursts -/

/-- R98: the bursts of the pieces of a span, from offset `off` of the span on. -/
theorem pieceBursts_eq (line place off : Nat) (ps : List (Nat × Nat)) :
    pieceBursts line place off ps =
      ps.zipIdx.flatMap fun p =>
        runBursts (fun o => .span line place (off + ((ps.take p.2).map Prod.snd).sum + o)) p.1.1 p.1.2 [] := by
  induction ps generalizing off with
  | nil => rfl
  | cons p rest ih =>
    rw [pieceBursts, ih, List.zipIdx_cons, List.flatMap_cons, List.zipIdx_succ, List.flatMap_map]
    congr 1
    refine List.flatMap_congr fun q _ => ?_
    simp only [List.take_succ_cons, List.map_cons, List.sum_cons, Nat.add_assoc]

theorem pieceBursts_reads (line place : Nat) (ps : List (Nat × Nat)) :
    pieceBursts line place 0 ps = spanReads line place ps := by
  rw [pieceBursts_eq]
  simp only [Nat.zero_add]
  rfl

/-- A run of `m * b` numbers, `b` at a time. -/
theorem range_mul (f : Nat → Nat) (m b : Nat) :
    (List.range (m * b)).map f = (List.range m).flatMap fun i => (List.range b).map fun j => f (i * b + j) := by
  induction m with
  | zero => simp
  | succ m ih =>
    rw [Nat.succ_mul, List.range_add, List.map_append, ih, List.range_succ, List.flatMap_append, List.map_map]
    simp [Function.comp_def]

/-- R97: the pieces of a ring span run through `n` ring columns from `start`, round the ring. -/
theorem ringPieces_columns (fuel start n width : Nat) (hn : n ≤ fuel) (hs : start < width) :
    ((ringPieces fuel start n width).flatMap fun p => (List.range p.2).map (p.1 + ·)) =
      (List.range n).map fun k => (start + k) % width := by
  induction fuel generalizing start n with
  | zero =>
    obtain rfl : n = 0 := by omega
    rfl
  | succ fuel ih =>
    rw [ringPieces]
    split
    · rename_i h
      subst h
      rfl
    · rw [List.flatMap_cons, ih 0 (n - min (width - start) n) (by omega) (by omega)]
      have e : n = min (width - start) n + (n - min (width - start) n) := by omega
      conv_rhs => rw [e, List.range_add, List.map_append, List.map_map]
      congr 1
      · refine List.map_congr_left fun k hk => ?_
        have := List.mem_range.mp hk
        exact (Nat.mod_eq_of_lt (by omega)).symm
      · refine List.map_congr_left fun k hk => ?_
        have := List.mem_range.mp hk
        dsimp only [Function.comp_apply]
        have hm : min (width - start) n = width - start := by omega
        rw [hm, ← Nat.add_assoc, Nat.add_sub_cancel' hs.le, Nat.add_mod_left, Nat.zero_add]

/-- R97: no piece of a ring span is empty. -/
theorem ringPieces_pos (fuel start n width : Nat) (hs : start < width) :
    ∀ p ∈ ringPieces fuel start n width, 1 ≤ p.2 := by
  induction fuel generalizing start n with
  | zero => simp [ringPieces]
  | succ fuel ih =>
    rw [ringPieces]
    split
    · simp
    · rintro p (_ | ⟨_, hp⟩)
      · dsimp only
        omega
      · exact ih 0 _ (by omega) p hp

/-- R97: every piece of a ring span but the first begins at ring column 0. -/
theorem ringPieces_start (fuel n width : Nat) : ∀ p ∈ ringPieces fuel 0 n width, p.1 = 0 := by
  induction fuel generalizing n with
  | zero => simp [ringPieces]
  | succ fuel ih =>
    rw [ringPieces]
    split
    · simp
    · rintro p (_ | ⟨_, hp⟩)
      · rfl
      · exact ih _ p hp

theorem ringPieces_tail (fuel start n width : Nat) : ∀ p ∈ (ringPieces fuel start n width).tail, p.1 = 0 := by
  cases fuel with
  | zero => simp [ringPieces]
  | succ fuel =>
    rw [ringPieces]
    split
    · simp
    · exact ringPieces_start fuel _ width

/-- R97: every piece of a ring span but the last ends at the ring's last column. -/
theorem ringPieces_end (fuel start n width : Nat) (hs : start < width) :
    ∀ p ∈ (ringPieces fuel start n width).dropLast, p.1 + p.2 = width := by
  induction fuel generalizing start n with
  | zero => simp [ringPieces]
  | succ fuel ih =>
    rw [ringPieces]
    split
    · simp
    · rintro p hp
      by_cases hr : ringPieces fuel 0 (n - min (width - start) n) width = []
      · simp [hr] at hp
      · rw [List.dropLast_cons_of_ne_nil hr] at hp
        rcases List.mem_cons.mp hp with rfl | hp
        · have : n - min (width - start) n ≠ 0 := by
            intro h
            rw [h] at hr
            cases fuel <;> simp [ringPieces] at hr
          dsimp only
          omega
        · exact ih 0 _ (by omega) p hp

theorem Format.bytes_pos (f : Format) : 1 ≤ f.bytes := by
  cases f <;> decide

/-- R96, R97: the pieces of a span. -/
theorem spanPieces_pieces (dst : Rect) (sf : Surface) (o : Option Offset) (row n : Nat) :
    PiecesOf dst sf o row n (spanPieces sf o row n) := by
  refine ⟨fun h => by simp [spanPieces, h], fun r off hr ho hz => ?_⟩
  have hlt := ringMod_lt ((off.col : Int) - r.x) hz
  refine ⟨(List.range n).map fun k => r.x + (ringMod ((off.col : Int) - r.x) r.w + k) % r.w, by simp, ?_, ?_⟩
  · intro k col hk
    refine ⟨fun h => by simp [hr] at h, fun r' off' hr' ho' hz' => ?_⟩
    obtain rfl := Option.some.inj (hr.symm.trans hr')
    obtain rfl := Option.some.inj (ho.symm.trans ho')
    simp only [List.getElem?_map, Option.map_eq_some_iff] at hk
    obtain ⟨j, hj, rfl⟩ := hk
    obtain rfl : k = j := by
      have := (List.getElem?_eq_some_iff.mp hj).2
      simpa using this
    simp only [Nat.cast_add, Int.natCast_mod, ringMod_eq _ hz, Int.emod_add_emod]
    congr 2
    omega
  · have e : spanPieces sf o row n =
        (ringPieces n (ringMod ((off.col : Int) - r.x) r.w) n r.w).map fun p =>
          (sf.base.toNat + row * sf.pitch + (r.x + p.1) * sf.format.bytes, p.2 * sf.format.bytes) := by
      simp [spanPieces, hr, ho]
    have k := ringPieces_columns n _ n r.w le_rfl hlt
    have k' := congrArg
      (List.flatMap fun c => (List.range sf.format.bytes).map fun j =>
        sf.base.toNat + row * sf.pitch + (r.x + c) * sf.format.bytes + j) k
    rw [List.flatMap_assoc, List.flatMap_map] at k'
    refine ⟨?_, ?_, ?_, ?_⟩
    · rw [e, List.flatMap_map, List.flatMap_map]
      refine Eq.trans (List.flatMap_congr fun p _ => ?_) k'
      rw [List.flatMap_map, range_mul]
      refine List.flatMap_congr fun i _ => ?_
      refine List.map_congr_left fun j _ => ?_
      ring
    · rw [e, ← List.map_dropLast]
      rintro p hp
      obtain ⟨q, hq, rfl⟩ := List.mem_map.mp hp
      rw [← ringPieces_end n _ n r.w hlt q hq]
      ring
    · rw [e, ← List.map_tail]
      rintro p hp
      obtain ⟨q, hq, rfl⟩ := List.mem_map.mp hp
      rw [ringPieces_tail n _ n r.w q hq, Nat.add_zero]
    · rw [e]
      rintro p hp
      obtain ⟨q, hq, rfl⟩ := List.mem_map.mp hp
      exact Nat.mul_pos (ringPieces_pos n _ n r.w hlt q hq) (Format.bytes_pos _)

/-! ### The fetch of a line -/

/-- The span of a window and its bursts: the bursts are those of the span's pieces. -/
theorem openSpan_reads (s : State) (y i : Nat) (l : Listed) :
    (openSpan s y i l).2 = spanReads y i (openSpan s y i l).1.pieces ∧ (openSpan s y i l).1.pos = l.pos := by
  unfold openSpan
  split
  · split
    · exact ⟨rfl, rfl⟩
    · exact ⟨pieceBursts_reads _ _ _, rfl⟩
  · exact ⟨rfl, rfl⟩

theorem flatMap_zipIdx_map {α β γ : Type} (g : α × Nat → β) (h : β × Nat → List γ) (l : List α) (k : Nat) :
    (((l.zipIdx k).map g).zipIdx k).flatMap h = (l.zipIdx k).flatMap fun p => h (g p, p.2) := by
  induction l generalizing k with
  | nil => rfl
  | cons a l ih => simp only [List.zipIdx_cons, List.map_cons, List.flatMap_cons, ih]

/-- R95 to R98: the fetch of a line begun with the coming list. -/
theorem beginFetch_begun (y : Nat) (s : State) : FetchBegun y s.port.fetch (beginFetch y s) where
  active := rfl
  places := by
    show (((s.comp.coming.zipIdx.map fun p => openSpan s y p.2 p.1).map Prod.fst).map Span.pos) = _
    rw [List.map_map, List.map_map]
    have : ((Span.pos ∘ Prod.fst) ∘ fun p : Listed × Nat => openSpan s y p.2 p.1) = Listed.pos ∘ Prod.fst := by
      funext p
      exact (openSpan_reads s y p.2 p.1).2
    rw [this, ← List.map_map, List.zipIdx_map_fst]
    rfl
  unread i l x hi hx hno := by
    show ((s.comp.coming.zipIdx.map fun p => openSpan s y p.2 p.1).map Prod.fst)[i]? = _
    have hi' : s.comp.coming[i]? = some l := hi
    have hx' : s.loader.shownTable[l.pos]? = some x := hx
    rw [List.getElem?_map, List.getElem?_map, List.getElem?_zipIdx, hi']
    simp only [Option.map_some, Nat.zero_add, openSpan, hx']
    rcases hno with ⟨c, hc⟩ | h | h
    · simp [hc]
    · split
      · simp [h]
      · rfl
    · split
      · simp [h]
      · rfl
  read i l x sf hi hx hs hc hm := by
    have hi' : s.comp.coming[i]? = some l := hi
    have hx' : s.loader.shownTable[l.pos]? = some x := hx
    refine ⟨spanPieces sf (s.comp.offsets.getD l.pos none) l.row l.count, spanPieces_pieces _ _ _ _ _, ?_⟩
    show ((s.comp.coming.zipIdx.map fun p => openSpan s y p.2 p.1).map Prod.fst)[i]? = _
    rw [List.getElem?_map, List.getElem?_map, List.getElem?_zipIdx, hi']
    simp [openSpan, hx', hs, hc, hm, pieceBursts_reads]
  requests := by
    show s.port.fetch ++ (s.comp.coming.zipIdx.map fun p => openSpan s y p.2 p.1).flatMap Prod.snd =
      s.port.fetch ++
        ((s.comp.coming.zipIdx.map fun p => openSpan s y p.2 p.1).map Prod.fst).zipIdx.flatMap fun p =>
          spanReads y p.2 p.1.pieces
    rw [List.map_map, flatMap_zipIdx_map, List.flatMap_map]
    congr 1
    exact List.flatMap_congr fun p _ => (openSpan_reads s y p.2 p.1).1

/-- A fetch begun, seen from a state that agrees on what it has set up. -/
theorem FetchBegun.congr {y : Nat} {pre : List Burst} {u v : State} (h : FetchBegun y pre u) (hf : v.fetch = u.fetch)
    (hp : v.port.fetch = u.port.fetch) (hl : v.loader.shownTable = u.loader.shownTable) (hc : v.comp = u.comp) :
    FetchBegun y pre v where
  active := hf ▸ h.active
  places := by rw [hf, hc]; exact h.places
  unread := by rw [hf, hc, hl]; exact h.unread
  read := by rw [hf, hc, hl]; exact h.read
  requests := by rw [hf, hp]; exact h.requests

/-- A line's list, seen from a state that agrees on it. -/
theorem ListsLine.congr {w y : Nat} {u v : State} (h : ListsLine w y u) (hl : v.loader.shownTable = u.loader.shownTable)
    (hc : v.comp = u.comp) : ListsLine w y v where
  ascending := hc ▸ h.ascending
  windows := by rw [hc, hl]; exact h.windows
  columns := by rw [hc, hl]; exact h.columns
  rows := by rw [hc, hl]; exact h.rows
  marks := by rw [hc]; exact h.marks

/-- R73 to R75, R95 to R98: with a slot shown, the list of line `y` is formed and its fetch begun. -/
theorem formLine_begun {w y : Nat} {s : State} (h : s.loader.shownSlot.isSome = true) :
    ListsLine w y (formLine w y s) ∧ FetchBegun y s.port.fetch (formLine w y s) := by
  unfold formLine
  rw [if_pos h]
  exact ⟨comingList_lists rfl rfl rfl rfl, beginFetch_begun y (s.modComp _)⟩

end Sys2Proof.Machine
end

