-- ==== Sys2Proof/Laws/Scene.lean ====
section
/-! SUPPORT. The scene loader's choice of a candidate: the offers, their marks, and the newest of them. -/

namespace Sys2Proof.Machine

/-! ### Marks -/

theorem markOffer_eq (l : Loader) (s : State) (p : Slot × Descriptor) :
    markOffer l s p =
      match offerMark l p.2 with
      | some code =>
        raise .sceneRejected
          (issueLoader
            [burstAt (.slotWrite p.1 p.2.seq false) (s.regs.dirBase.toNat + 0x20 + 32 * p.1.val) 4
              [4, code.toByte, 0, 0]] s)
      | none => s := by
  unfold markOffer
  rcases offerMark l p.2 with _ | code
  · rfl
  · unfold writeRejected slotWordBurst controlAddr
    simp only [← Nat.add_assoc]

/-- R4, R10: the code with which an offer is marked. -/
theorem offerMark_code (l : Loader) (d : Descriptor) : offerMark l d = offerCode l d := by
  unfold offerMark offerCode
  by_cases h : d.seq = 0
  · rw [if_pos h, if_pos h]
  · rw [if_neg h, if_neg h]
    have e : ((l.hasShown && !newer d.seq l.shownSeq) = true) ↔ (l.hasShown = true ∧ ¬NewerSeq d.seq l.shownSeq) := by
      unfold newer NewerSeq
      generalize (d.seq - l.shownSeq).toNat = x
      rw [Bool.and_eq_true, Bool.not_eq_true', ← Bool.decide_and, decide_eq_false_iff_not]
    by_cases k : l.hasShown = true ∧ ¬NewerSeq d.seq l.shownSeq
    · rw [if_pos k, if_pos (e.mpr k)]
    · rw [if_neg k, if_neg fun m => k (e.mp m)]

/-- The REJECTED write that marks an offer, the control block being at `base`. -/
def offerWrite (base : Word) (l : Loader) (p : Slot × Descriptor) : Option Burst :=
  (offerCode l p.2).map fun code =>
    burstAt (.slotWrite p.1 p.2.seq false) (base.toNat + 0x20 + 32 * p.1.val) 4 [4, code.toByte, 0, 0]

/-- R10: marking a list of offers issues the REJECTED writes of those it marks, in the list's order, and raises
SCENE_REJECTED when there is one; it does no more. -/
theorem markOffers_eq (l : Loader) (ps : List (Slot × Descriptor)) (s : State) (marks : List Burst)
    (hm : marks = ps.filterMap (offerWrite s.regs.dirBase l)) :
    ps.foldl (markOffer l) s =
      { s with
        port := { s.port with loader := s.port.loader ++ marks }
        regs := { s.regs with events := if marks = [] then s.regs.events else s.regs.events ||| 0x002 } } := by
  induction ps generalizing s marks with
  | nil =>
    subst hm
    simp
  | cons p ps ih =>
    rw [List.foldl_cons, markOffer_eq, offerMark_code]
    rw [List.filterMap_cons] at hm
    unfold offerWrite at hm
    rcases h : offerCode l p.2 with _ | code
    · rw [h] at hm
      exact ih s marks hm
    · rw [h] at hm
      have hr (u : State) :
          raise .sceneRejected u = { u with regs := { u.regs with events := u.regs.events ||| 0x002 } } := by
        simp only [raise_eq]
        rfl
      obtain ⟨rest, hrest⟩ : ∃ rest, rest = ps.filterMap (offerWrite s.regs.dirBase l) := ⟨_, rfl⟩
      refine (congrArg (fun x => ps.foldl (markOffer l) x) (hr _)).trans
        ((ih
          { s with
            port :=
              { s.port with
                loader :=
                  s.port.loader ++
                    [burstAt (.slotWrite p.1 p.2.seq false) (s.regs.dirBase.toNat + 0x20 + 32 * p.1.val) 4
                      [4, code.toByte, 0, 0]] },
            regs := { s.regs with events := s.regs.events ||| 0x002 } } rest hrest).trans ?_)
      dsimp only [Option.map_some] at hm
      have hm' : marks = _ :: rest := hm.trans (congrArg (_ :: ·) hrest.symm)
      subst hm'
      rw [if_neg (List.cons_ne_nil _ _)]
      dsimp only
      rw [List.append_assoc]
      by_cases hv : rest = []
      · rw [if_pos hv]
        rfl
      · rw [if_neg hv, BitVec.or_assoc, BitVec.or_self]
        rfl

/-- R2: the marks of a descriptor phase are those of its offers, in ascending slot index. -/
theorem offers_markWrites (base : Word) (l : Loader) : (offers l).filterMap (offerWrite base l) = markWrites base l := by
  unfold offers markWrites
  rw [List.filterMap_filterMap]
  refine List.filterMap_congr fun n _ => ?_
  rcases l.descs[n.val] with _ | d
  · rfl
  · dsimp only
    by_cases h : d.state = 1
    · rw [if_pos h, if_pos h]
      rfl
    · rw [if_neg h, if_neg h]
      rfl

/-- R13: the code with which a candidate is refused before its body is read. -/
theorem bodyRefused_iff (d : Descriptor) (code : Code) : bodyRefused d = some code ↔ BodyRefused d code := by
  unfold bodyRefused BodyRefused BodyLengthBad
  by_cases h : d.bodyLen.toNat < 8 ∨ 1024 < d.bodyLen.toNat ∨ d.bodyLen.toNat % 4 ≠ 0
  · rw [if_pos (by simpa [or_assoc] using h)]
    refine ⟨fun e => .inl ⟨(Option.some.inj e).symm, h⟩, fun e => ?_⟩
    rcases e with ⟨rfl, _⟩ | ⟨_, k, _⟩
    · rfl
    · exact absurd h k
  · rw [if_neg (by simpa [or_assoc] using h)]
    by_cases k : d.bodyAddr.toNat % 8 = 0
    · rw [if_neg (by simp [k])]
      refine ⟨nofun, fun e => ?_⟩
      rcases e with ⟨_, m⟩ | ⟨_, _, m⟩
      · exact absurd m h
      · exact absurd k m
    · rw [if_pos (by simp [k])]
      refine ⟨fun e => .inr ⟨(Option.some.inj e).symm, h, k⟩, fun e => ?_⟩
      rcases e with ⟨_, m⟩ | ⟨rfl, _, _⟩
      · exact absurd m h
      · rfl

/-! ### Offers -/

theorem offers_sorted (l : Loader) : (offers l).Pairwise fun a b => a.1 < b.1 := by
  have key : ∀ (n : Slot) (z : Slot × Descriptor),
      (match l.descs[n.val] with | some d => if d.state = 1 then some (n, d) else none | none => none) = some z →
        z.1 = n := by
    intro n z h
    split at h
    · split at h
      · cases h; rfl
      · cases h
    · cases h
  unfold offers
  rw [List.pairwise_filterMap]
  have : allSlots.Pairwise (· < ·) := by decide
  refine this.imp ?_
  intro a b hab x hx y hy
  rw [key a x hx, key b y hy]
  exact hab

/-- R2: an offer is a slot whose descriptor read says OFFERED. -/
theorem mem_offers {l : Loader} {p : Slot × Descriptor} (h : p ∈ offers l) :
    l.descs[p.1.val] = some p.2 ∧ p.2.state = 1 := by
  unfold offers at h
  obtain ⟨n, _, hn⟩ := List.mem_filterMap.mp h
  split at hn
  · rename_i d hd
    split at hn
    · cases hn
      exact ⟨hd, by assumption⟩
    · cases hn
  · cases hn

/-! ### The newest offer (01, section 1.2) -/

/-- Among sequences within one half of the space above `base`, newer is further from `base`. -/
theorem newer_from_base {a b base : Word} (ha : (a - base).toNat < 2 ^ 31) (hb : (b - base).toNat < 2 ^ 31) :
    newer a b = true ↔ (b - base).toNat < (a - base).toNat := by
  unfold newer
  simp only [Bool.and_eq_true, decide_eq_true_eq]
  have : a - b = (a - base) - (b - base) := by simp [BitVec.sub_eq_add_neg]
  rw [this, BitVec.toNat_sub]
  generalize (a - base).toNat = x at *
  generalize (b - base).toNat = y at *
  omega

theorem newest_mem (ps : List (Slot × Descriptor)) (p : Slot × Descriptor) :
    ps.foldl (fun best q => if newer q.2.seq best.2.seq then q else best) p ∈ p :: ps := by
  induction ps generalizing p with
  | nil => simp
  | cons r ps ih =>
    rw [List.foldl_cons]
    rcases List.mem_cons.mp (ih (if newer r.2.seq p.2.seq then r else p)) with h | h
    · rw [h]
      split <;> simp
    · exact List.mem_cons_of_mem _ (List.mem_cons_of_mem _ h)

theorem bestOffer_mem {ps : List (Slot × Descriptor)} {c : Slot × Descriptor} (h : bestOffer ps = some c) : c ∈ ps := by
  cases ps with
  | nil => cases h
  | cons p ps => cases h; exact newest_mem ps p

/-- R11: among offers within one half of the space above `base`, in ascending slot order, the choice is the newest, and
the first of its equals. -/
theorem newest_spec (base : Word) (ps : List (Slot × Descriptor)) (p c : Slot × Descriptor)
    (hb : ∀ q ∈ p :: ps, (q.2.seq - base).toNat < 2 ^ 31) (hs : (p :: ps).Pairwise fun a b => a.1 < b.1)
    (hc : c = ps.foldl (fun best q => if newer q.2.seq best.2.seq then q else best) p) :
    ∀ q ∈ p :: ps, (q.2.seq - base).toNat ≤ (c.2.seq - base).toNat ∧
      ((q.2.seq - base).toNat = (c.2.seq - base).toNat → c.1 ≤ q.1) := by
  induction ps generalizing p with
  | nil =>
    intro q hq
    rw [hc, List.mem_singleton.mp hq]
    exact ⟨le_refl _, fun _ => le_refl _⟩
  | cons r ps ih =>
    rw [List.foldl_cons] at hc
    have hs1 := List.pairwise_cons.mp hs
    have hp := hb p (by simp)
    have hr := hb r (by simp)
    by_cases h : newer r.2.seq p.2.seq = true
    · rw [if_pos h] at hc
      have i := ih r (fun q hq => hb q (List.mem_cons_of_mem _ hq)) hs1.2 hc
      intro q hq
      rcases List.mem_cons.mp hq with rfl | hq
      · have := (newer_from_base hr hp).mp h
        have := (i r (by simp)).1
        exact ⟨by omega, fun _ => by omega⟩
      · exact i q hq
    · rw [if_neg h] at hc
      have hsub : (p :: ps).Sublist (p :: r :: ps) := by simp
      have i := ih p (fun q hq => hb q (hsub.subset hq)) (hs.sublist hsub) hc
      intro q hq
      rcases List.mem_cons.mp hq with rfl | hq
      · exact i _ (by simp)
      · rcases List.mem_cons.mp hq with rfl | hq
        · have h1 : ¬(p.2.seq - base).toNat < (q.2.seq - base).toNat := fun k => h ((newer_from_base hr hp).mpr k)
          have h2 := i p (by simp)
          refine ⟨by omega, fun k => ?_⟩
          have : c.1 ≤ p.1 := h2.2 (by omega)
          exact le_of_lt (lt_of_le_of_lt this (hs1.1 q (by simp)))
        · exact i q (List.mem_cons_of_mem _ hq)

end Sys2Proof.Machine
end

