-- ==== Sys2Proof/Laws/Load.lean ====
section
/-! SUPPORT. What the operations leave alone of the load in hand (`LoadWf`): one lemma `<operation>_aside` for each that
is none of the scene loader's load, and one `<operation>_load` for each that is. -/

namespace Sys2Proof.Machine

/-- The loader's fields that `LoadWf` reads. -/
def loadKey (l : Loader) :=
  (l.phase, l.candidate, l.descs, l.descLeft, l.shownSlot, l.shownSeq, l.hasShown, l.staged)

/-- The bursts of the port that are no loader's and no read's. -/
def otherBursts (p : Port) : List Burst :=
  p.fetch ++ p.status ++ p.paint ++ p.write.toList.map Place.burst

/-- What a change that is none of the load's leaves alone: the loader's fields that `LoadWf` reads, the descriptor reads
that are open, and that no other requester has one. -/
structure Aside (s t : State) : Prop where
  key : loadKey t.loader = loadKey s.loader
  opens : openDescriptors t.port = openDescriptors s.port
  others : (∀ b ∈ otherBursts s.port, b.kind.isDescriptor = false) →
    ∀ b ∈ otherBursts t.port, b.kind.isDescriptor = false

theorem Aside.refl (s : State) : Aside s s :=
  ⟨rfl, rfl, fun h => h⟩

theorem Aside.trans {s t u : State} (h : Aside s t) (k : Aside t u) : Aside s u :=
  ⟨k.key.trans h.key, k.opens.trans h.opens, fun e => k.others (h.others e)⟩

/-- Nothing of the loader and of the port has changed. -/
theorem Aside.of_eq {s t : State} (h : t.loader = s.loader) (k : t.port = s.port) : Aside s t :=
  ⟨by rw [h], by rw [k], by rw [k]; exact fun h => h⟩

/-- `LoadWf` stands where the loader's fields and the open descriptor reads do, in whatever order. -/
theorem LoadWf.of_key {s t : State} (h : LoadWf s) (e : loadKey t.loader = loadKey s.loader)
    (len : (openDescriptors t.port).length = (openDescriptors s.port).length)
    (mem : ∀ b ∈ openDescriptors t.port, b ∈ openDescriptors s.port)
    (o : ∀ b ∈ otherBursts t.port, b.kind.isDescriptor = false) : LoadWf t := by
  simp only [loadKey, Prod.mk.injEq] at e
  obtain ⟨e1, e2, e3, e4, e5, e6, e7, e8⟩ := e
  exact
    { asked := by rw [e4, len]; exact h.asked
      idle := by rw [e1, e4]; exact h.idle
      reads := by rw [e5]; exact fun b hb => h.reads b (mem b hb)
      read := by rw [e3, e5]; exact h.read
      chosen := by rw [e2, e3, e6, e7]; exact h.chosen
      choosing := by rw [e2, e4]; exact h.choosing
      alone := by rw [e2, e3, e4, e8]; exact h.alone
      newer := by rw [e6, e7, e8]; exact h.newer
      apart := by rw [e5, e8]; exact h.apart
      elsewhere := o }

/-- `LoadWf` stands through a change that is none of the load's. -/
theorem LoadWf.aside {s t : State} (h : LoadWf s) (k : Aside s t) : LoadWf t :=
  h.of_key k.key (by rw [k.opens]) (by rw [k.opens]; exact fun _ hb => hb) (k.others h.elsewhere)

/-! ### Block updates and messages -/

theorem modComp_aside (f : Comp → Comp) (s : State) : Aside s (s.modComp f) :=
  .of_eq rfl rfl

theorem modPaint_aside (f : Paint → Paint) (s : State) : Aside s (s.modPaint f) :=
  .of_eq rfl rfl

theorem modFetch_aside (f : Fetch → Fetch) (s : State) : Aside s (s.modFetch f) :=
  .of_eq rfl rfl

theorem modScan_aside (f : Scan → Scan) (s : State) : Aside s (s.modScan f) :=
  .of_eq rfl rfl

theorem modRegs_aside (f : Regs → Regs) (s : State) : Aside s (s.modRegs f) :=
  .of_eq rfl rfl

theorem modWriter_aside (f : Writer → Writer) (s : State) : Aside s (s.modWriter f) :=
  .of_eq rfl rfl

theorem raise_aside (e : Event) (s : State) : Aside s (raise e s) :=
  .of_eq rfl rfl

theorem report_aside (r : Report) (s : State) : Aside s (report r s) :=
  .of_eq rfl rfl

theorem askBlock_aside (s : State) : Aside s (askBlock s) :=
  .of_eq rfl rfl

/-! ### The port -/

/-- No burst of a list is a descriptor read. -/
abbrev NoDescriptor (bs : List Burst) : Prop :=
  ∀ b ∈ bs, b.kind.isDescriptor = false

theorem noDescriptor_one {k : BurstKind} {a n : Nat} {d : List Byte} (h : k.isDescriptor = false) :
    NoDescriptor [burstAt k a n d] := by
  intro b hb
  rw [List.mem_singleton.mp hb]
  exact h

theorem noDescriptor_run {k : Nat → BurstKind} {a n : Nat} {d : List Byte} (h : ∀ o, (k o).isDescriptor = false) :
    NoDescriptor (runBursts k a n d) := by
  intro b hb
  obtain ⟨p, _, rfl⟩ := List.mem_map.mp hb
  exact h _

theorem noDescriptor_rowReads (c : CopyFields) (row : Nat) : NoDescriptor (c.rowReads row) := by
  intro b hb
  obtain ⟨r, _, hr⟩ := List.mem_flatMap.mp hb
  exact noDescriptor_run (fun _ => rfl) b hr

theorem noDescriptor_pieces (l p : Nat) (ps : List (Nat × Nat)) : ∀ off, NoDescriptor (pieceBursts l p off ps) := by
  induction ps with
  | nil => intro off b hb; cases hb
  | cons q ps ih =>
    intro off b hb
    rcases List.mem_append.mp hb with h | h
    · exact noDescriptor_run (fun _ => rfl) b h
    · exact ih _ b h

/-- Bursts queued behind others are open descriptor reads only if they are descriptor reads. -/
theorem openDescriptors_loader (p : Port) (l : List Burst) (h : NoDescriptor l) :
    openDescriptors { p with loader := p.loader ++ l } = openDescriptors p := by
  have e : l.filter (fun b => b.kind.isDescriptor && !b.dropped) = [] :=
    List.filter_eq_nil_iff.mpr fun b hb => by simp [h b hb]
  simp only [openDescriptors, List.filter_append, e, List.append_nil]

theorem issueLoader_aside {bs : List Burst} (s : State) (h : NoDescriptor bs) : Aside s (issueLoader bs s) :=
  ⟨rfl, openDescriptors_loader s.port bs h, fun e => e⟩

theorem issueTiming_aside {b : Burst} (s : State) (h : b.kind.isDescriptor = false) : Aside s (issueTiming b s) := by
  refine ⟨rfl, ?_, fun e => e⟩
  unfold issueTiming State.modPort openDescriptors
  rw [List.filter_append, List.filter_append]
  refine congrArg (· ++ _) ?_
  show List.filter _ (match s.port.loader with | [] => [b] | c :: rest => c :: b :: rest) = _
  generalize s.port.loader = l
  cases l <;> simp [List.filter_cons, h]

theorem issueFetch_aside {bs : List Burst} (s : State) (h : NoDescriptor bs) : Aside s (issueFetch bs s) := by
  refine ⟨rfl, rfl, fun e b hb => ?_⟩
  simp only [issueFetch, State.modPort, otherBursts, List.mem_append] at hb e
  exact (em (b ∈ bs)).elim (h b) fun n => e b (by tauto)

theorem issueStatus_aside {bs : List Burst} (s : State) (h : NoDescriptor bs) : Aside s (issueStatus bs s) := by
  refine ⟨rfl, rfl, fun e b hb => ?_⟩
  simp only [issueStatus, State.modPort, otherBursts, List.mem_append] at hb e
  exact (em (b ∈ bs)).elim (h b) fun n => e b (by tauto)

theorem issuePaint_aside {bs : List Burst} (s : State) (h : NoDescriptor bs) : Aside s (issuePaint bs s) := by
  refine ⟨rfl, rfl, fun e b hb => ?_⟩
  simp only [issuePaint, State.modPort, otherBursts, List.mem_append] at hb e
  exact (em (b ∈ bs)).elim (h b) fun n => e b (by tauto)

/-- Discarding reads that are no descriptor reads leaves the open descriptor reads. -/
theorem openPlaces_drop {k : BurstKind → Bool} (h : ∀ b, k b = true → b.isDescriptor = false) (l : List Place) :
    ((((l.map fun pl => if k pl.burst.kind then { pl with burst := pl.burst.drop } else pl).filter
        fun pl => !pl.abandoned).map Place.burst).filter fun b => b.kind.isDescriptor && !b.dropped) =
      ((l.filter fun pl => !pl.abandoned).map Place.burst).filter fun b => b.kind.isDescriptor && !b.dropped := by
  induction l with
  | nil => rfl
  | cons pl l ih =>
    by_cases hk : k pl.burst.kind = true
    · have hd : pl.burst.drop.kind.isDescriptor = false := h _ hk
      cases ha : pl.abandoned <;>
        simp only [List.map_cons, hk, if_true, List.filter_cons, ha, Bool.not_true, Bool.not_false,
          Bool.false_eq_true, if_false, hd, h _ hk, Bool.false_and, ih]
    · cases ha : pl.abandoned <;>
        simp only [List.map_cons, hk, if_false, Bool.false_eq_true, List.filter_cons, ha, Bool.not_true, Bool.not_false,
          if_true, ih]

theorem dropReads_aside {k : BurstKind → Bool} (h : ∀ b, k b = true → b.isDescriptor = false) (s : State) :
    Aside s (s.modPort (Port.dropReads k)) := by
  refine ⟨rfl, ?_, fun e => e⟩
  unfold State.modPort Port.dropReads openDescriptors
  rw [List.filter_append, List.filter_append, openPlaces_drop h]

/-- Bursts of another requester than the loader withdrawn. -/
theorem withdrawn_aside {s t : State} (h : t.loader = s.loader) (l : t.port.loader = s.port.loader)
    (r : t.port.reads = s.port.reads) (o : ∀ b ∈ otherBursts t.port, b ∈ otherBursts s.port) : Aside s t :=
  ⟨by rw [h], by unfold openDescriptors; rw [l, r], fun e b hb => e b (o b hb)⟩

theorem settleLoader_aside (s : State) : Aside s (settleLoader s) := by
  unfold settleLoader
  split
  · rename_i e
    refine ⟨rfl, ?_, fun e => e⟩
    simp only [askBlock, State.modWriter, State.modPort, openDescriptors, e, List.cons_append, List.filter_cons]
    simp [BurstKind.isDescriptor]
  · exact .refl s

theorem paintRequester (b : BurstKind) (h : (b.requester == .paint) = true) : b.isDescriptor = false := by
  cases b <;> first | rfl | cases h

theorem withdrawPaint_aside (s : State) : Aside s (withdrawPaint s) := by
  refine Aside.trans (t := s.modPort fun p => { p with paint := p.paint.filter fun b => b.kind == .final })
    (withdrawn_aside rfl rfl rfl fun b hb => ?_) (dropReads_aside paintRequester _)
  simp only [State.modPort, otherBursts, List.mem_append, List.mem_filter] at hb ⊢
  tauto

/-! ### The paint engine's operations -/

theorem modHeld_aside (f : Held → Held) (s : State) : Aside s (modHeld f s) :=
  modPaint_aside _ s

theorem setEngine_aside (e : EngineState) (s : State) : Aside s (setEngine e s) :=
  modPaint_aside _ s

theorem readWord_aside {k : BurstKind} (h : k.isDescriptor = false) (a : Nat) (s : State) : Aside s (readWord k a s) :=
  (setEngine_aside _ _).trans (issuePaint_aside _ (noDescriptor_one h))

theorem readHeadPointer_aside {k : BurstKind} (h : k.isDescriptor = false) (s : State) : Aside s (readHeadPointer k s) :=
  readWord_aside h _ s

theorem readOrderHead_aside (a : Word) (s : State) : Aside s (readOrderHead a s) :=
  (modPaint_aside _ _).trans (issuePaint_aside _ (noDescriptor_run fun _ => rfl))

theorem rereadTail_aside (s : State) : Aside s (rereadTail s) := by
  unfold rereadTail
  split
  · exact readHeadPointer_aside rfl _
  · exact readWord_aside rfl _ _

theorem enterTail_aside (s : State) : Aside s (enterTail s) :=
  modPaint_aside _ s

theorem followLink_aside (link : Word) (s : State) : Aside s (followLink link s) := by
  unfold followLink
  split
  · exact enterTail_aside s
  · exact readOrderHead_aside _ s

theorem halt_aside (s : State) : Aside s (halt s) :=
  (setEngine_aside _ _).trans (raise_aside _ _)

theorem reportPaint_aside (c : Code) (a : Word) (s : State) : Aside s (reportPaint c a s) :=
  report_aside _ s

theorem haltOnError_aside (a : Word) (s : State) : Aside s (haltOnError a s) :=
  (reportPaint_aside _ _ _).trans (halt_aside _)

theorem setChainPos_aside (a : Word) (s : State) : Aside s (setChainPos a s) := by
  unfold setChainPos
  dsimp only
  split
  · exact modPaint_aside _ s
  · exact (modPaint_aside _ s).trans (askBlock_aside _)

theorem tryFinish_aside (s : State) : Aside s (tryFinish s) := by
  unfold tryFinish
  split
  · exact .refl s
  · split
    · exact .refl s
    · split
      · exact (modHeld_aside _ s).trans (issuePaint_aside _ (noDescriptor_one rfl))
      · exact .refl s

theorem settleFinal_aside (f : FinalStatus) (s : State) : Aside s (settleFinal f s) :=
  (setEngine_aside _ _).trans (modHeld_aside _ _)

theorem finish_aside (f : FinalStatus) (s : State) : Aside s (finish f s) :=
  (settleFinal_aside f s).trans (tryFinish_aside _)

theorem faultHeld_aside (a : Word) (s : State) : Aside s (faultHeld a s) :=
  ((((reportPaint_aside _ a s).trans (withdrawPaint_aside _)).trans (setEngine_aside _ _)).trans
    (modHeld_aside _ _)).trans (tryFinish_aside _)

theorem startRow_aside (s : State) : Aside s (startRow s) := by
  unfold startRow
  split
  · exact .refl s
  · split
    · exact (modHeld_aside _ _).trans (issuePaint_aside _ (noDescriptor_rowReads _ _))
    · exact issuePaint_aside _ (noDescriptor_run fun _ => rfl)
    all_goals exact .refl s

theorem writeRow_aside (h : Held) (s : State) : Aside s (writeRow h s) := by
  unfold writeRow
  split
  · exact issuePaint_aside _ (noDescriptor_run fun _ => rfl)
  all_goals exact .refl s

theorem nextRow_aside (h : Held) (s : State) : Aside s (nextRow h s) := by
  unfold nextRow
  split
  · exact (modHeld_aside _ _).trans (startRow_aside _)
  · exact (modHeld_aside _ _).trans (finish_aside _ _)

theorem testFence_aside (s : State) : Aside s (testFence s) := by
  unfold testFence
  split
  · split
    · split
      · exact finish_aside _ _
      · exact .refl s
    · exact .refl s
  · exact .refl s

theorem latchFence_aside (c : Bool) (s : State) : Aside s (latchFence c s) := by
  unfold latchFence
  split
  · split
    · exact finish_aside _ _
    · split
      · dsimp only
        split
        · exact (modPaint_aside _ _).trans (settleFinal_aside _ _)
        · exact modPaint_aside _ _
      · exact .refl s
  · exact .refl s

theorem latchPaint_aside (c : Bool) (s : State) : Aside s (latchPaint c s) := by
  unfold latchPaint
  split
  · exact rereadTail_aside s
  · split
    · exact latchFence_aside c s
    · exact .refl s

theorem endFenceAtOff_aside (s : State) : Aside s (endFenceAtOff s) := by
  unfold endFenceAtOff
  split
  · exact finish_aside _ _
  · exact .refl s

theorem retestHold_aside (s : State) : Aside s (retestHold s) := by
  unfold retestHold
  split
  · split
    · exact .refl s
    · split
      · exact .refl s
      · exact (setEngine_aside _ _).trans (startRow_aside _)
  · exact .refl s

theorem issueActive_aside (h : Held) (s : State) : Aside s (issueActive h s) :=
  issuePaint_aside s (noDescriptor_one rfl)

theorem carryOut_aside (h : Held) (s : State) : Aside s (carryOut h s) := by
  unfold carryOut
  split
  · split
    · exact (issueActive_aside _ _).trans (setEngine_aside _ _)
    · exact (issueActive_aside _ _).trans (startRow_aside _)
  · split
    · exact (issueActive_aside _ _).trans (setEngine_aside _ _)
    · exact (issueActive_aside _ _).trans (startRow_aside _)
  · split
    · exact finish_aside _ _
    · exact ((modPaint_aside _ _).trans (issueActive_aside _ _)).trans (setEngine_aside _ _)
  · exact issuePaint_aside _ (noDescriptor_one rfl)
  · exact .refl s

theorem beginOrder_aside (o : Order) (s : State) : Aside s (beginOrder o s) := by
  have h : Aside s (setEngine .executing (modHeld (fun h => { h with order := o, phase := .running }) s)) :=
    (modHeld_aside _ _).trans (setEngine_aside _ _)
  unfold beginOrder
  dsimp only
  split
  · exact h
  · split
    · exact h.trans (finish_aside _ _)
    · exact h.trans (carryOut_aside _ _)

theorem paintOn_aside (s : State) : Aside s (paintOn s) := by
  unfold paintOn
  split
  · dsimp only
    split
    · exact ((modPaint_aside _ _).trans (setChainPos_aside _ _)).trans (modPaint_aside _ _)
    · exact ((modPaint_aside _ _).trans (setChainPos_aside _ _)).trans (readHeadPointer_aside rfl _)
  · exact .refl s

theorem clearHeld_aside (h : Held) (s : State) : Aside s (clearHeld h s) := by
  unfold clearHeld
  split
  · exact modPaint_aside _ _
  · exact (modHeld_aside _ _).trans (tryFinish_aside _)
  · exact modHeld_aside _ _
  · exact modHeld_aside _ _

theorem paintOff_aside (s : State) : Aside s (paintOff s) := by
  unfold paintOff
  split
  · exact .refl s
  · dsimp only
    split
    · exact (modPaint_aside _ _).trans (withdrawPaint_aside _)
    · exact ((modPaint_aside _ _).trans (withdrawPaint_aside _)).trans (clearHeld_aside _ _)

/-! ### The compositor's and the line fetch unit's operations -/

theorem resetOffsets_aside (s : State) : Aside s (resetOffsets s) :=
  modComp_aside _ s

theorem advanceOffsets_aside (s : State) : Aside s (advanceOffsets s) :=
  modComp_aside _ s

theorem clearFlags_aside (s : State) : Aside s (clearFlags s) :=
  modComp_aside _ s

theorem takeList_aside (s : State) : Aside s (takeList s) :=
  modComp_aside _ s

theorem noDescriptor_openSpan (s : State) (y p : Nat) (l : Listed) : NoDescriptor (openSpan s y p l).2 := by
  unfold openSpan
  split
  · split
    · exact nofun
    · exact noDescriptor_pieces _ _ _ _
  · exact nofun

theorem beginFetch_aside (y : Nat) (s : State) : Aside s (beginFetch y s) := by
  unfold beginFetch
  refine (modFetch_aside _ _).trans (issueFetch_aside _ fun b hb => ?_)
  obtain ⟨p, hp, hb⟩ := List.mem_flatMap.mp hb
  obtain ⟨q, _, rfl⟩ := List.mem_map.mp hp
  exact noDescriptor_openSpan _ _ _ _ b hb

theorem formLine_aside (w y : Nat) (s : State) : Aside s (formLine w y s) := by
  unfold formLine
  split
  · exact (modComp_aside _ _).trans (beginFetch_aside _ _)
  · exact .refl s

theorem spanKind (b : BurstKind) (h : b.isSpan = true) : b.isDescriptor = false := by
  cases b <;> first | rfl | cases h

theorem endBursts_aside (s : State) : Aside s (endBursts s) := by
  refine Aside.trans (t := s.modPort fun p => { p with fetch := [] })
    (withdrawn_aside rfl rfl rfl fun b hb => ?_) (dropReads_aside spanKind _)
  simp only [State.modPort, otherBursts, List.mem_append] at hb ⊢
  tauto

theorem fetchOff_aside (s : State) : Aside s (fetchOff s) :=
  (endBursts_aside s).trans (modFetch_aside _ _)

theorem faultSpan_aside (p : Nat) (a : Word) (s : State) : Aside s (faultSpan p a s) := by
  unfold faultSpan
  split
  · exact .refl s
  · have k (u : State) :
        Aside u (u.modPort fun q =>
          Port.dropReads (BurstKind.ofSpan p) { q with fetch := q.fetch.filter fun b => !b.kind.ofSpan p }) := by
      refine Aside.trans (t := u.modPort fun q => { q with fetch := q.fetch.filter fun b => !b.kind.ofSpan p })
        (withdrawn_aside rfl rfl rfl fun b hb => ?_) (dropReads_aside (fun b h => by cases b <;> first | rfl | cases h) _)
      simp only [State.modPort, otherBursts, List.mem_append, List.mem_filter] at hb ⊢
      tauto
    exact ((((modFetch_aside _ s).trans (modComp_aside _ _)).trans (k _)).trans (report_aside _ _)).trans (raise_aside _ _)

theorem placeBytes_aside (p o : Nat) (d : List Byte) (s : State) : Aside s (placeBytes p o d s) :=
  modFetch_aside _ _


/-! ### The scan timing unit's operations, but for those that reach the load -/

theorem setOutput_aside (o : OutputState) (s : State) : Aside s (setOutput o s) :=
  (modScan_aside _ _).trans (askBlock_aside _)

theorem endLocking_aside (s : State) : Aside s (endLocking s) :=
  modScan_aside _ _

theorem enterLocking_aside (o : Origin) (s : State) : Aside s (enterLocking o s) :=
  ((modScan_aside _ _).trans (setOutput_aside _ _)).trans (issueTiming_aside _ rfl)

theorem timingKind (b : BurstKind) (h : b.isTiming = true) : b.isDescriptor = false := by
  cases b <;> first | rfl | cases h

theorem discardTiming_aside (s : State) : Aside s (discardTiming s) := by
  refine Aside.trans
    (t := s.modPort fun p => { p with loader := p.loader.map fun b => if b.kind.isTiming then b.drop else b })
    ⟨rfl, ?_, fun e => e⟩ (dropReads_aside timingKind _)
  unfold State.modPort openDescriptors
  rw [List.filter_append, List.filter_append]
  refine congrArg (· ++ _) ?_
  show List.filter _ (s.port.loader.map fun b => if b.kind.isTiming then b.drop else b) = _
  induction s.port.loader with
  | nil => rfl
  | cons b l ih =>
    rw [List.map_cons, List.filter_cons, List.filter_cons, ih]
    by_cases h : b.kind.isTiming = true
    · have d : b.drop.kind.isDescriptor = false := timingKind _ h
      simp only [h, if_true, d, timingKind _ h, Bool.false_and, Bool.false_eq_true, if_false]
    · simp only [h, if_false, Bool.false_eq_true]

theorem enterParked_aside (s : State) : Aside s (enterParked s) :=
  (setOutput_aside _ _).trans (raise_aside _ _)

theorem askOffBlock_aside (shown : Option Slot) (s : State) : Aside s (askOffBlock shown s) := by
  unfold askOffBlock
  split
  · exact askBlock_aside s
  · exact .refl s

theorem failEntry_aside (c : Code) (a : Word) (s : State) : Aside s (failEntry c a s) := by
  unfold failEntry
  split
  · exact .refl s
  · rename_i o _
    exact ((((setOutput_aside o.output s).trans (modRegs_aside _ _)).trans (endLocking_aside _)).trans
      (report_aside _ _)).trans (raise_aside _ _)

theorem lockExpires_aside (s : State) : Aside s (lockExpires s) := by
  unfold lockExpires
  split
  · exact failEntry_aside _ _ _
  · exact .refl s

theorem answerTiming_aside (b : Burst) (a : Answer) (s : State) : Aside s (answerTiming b a s) := by
  unfold answerTiming
  split
  · split
    · exact failEntry_aside _ _ s
    · split
      · exact modScan_aside _ _
      · exact failEntry_aside _ _ s
  · exact .refl s

theorem pulseMark_aside (s : State) : Aside s (pulseMark s) := by
  unfold pulseMark
  split
  · exact Aside.trans (modScan_aside _ _) (raise_aside _ _)
  · exact .refl s

theorem pixelPeriod_aside (s : State) : Aside s (pixelPeriod s) := by
  unfold pixelPeriod
  split
  · split
    · exact modScan_aside _ _
    · exact .refl s
  · exact .refl s

/-! ### The answers to bursts that are none of the load's -/

theorem answerSlotWrite_aside (b : Burst) (a : Answer) (s : State) : Aside s (answerSlotWrite b a s) := by
  unfold answerSlotWrite
  split
  · split
    · exact .refl s
    · exact report_aside _ s
  · exact .refl s

theorem answerSpan_aside (b : Burst) (a : Answer) (s : State) : Aside s (answerSpan b a s) := by
  unfold answerSpan
  split
  · split
    · exact placeBytes_aside _ _ _ s
    · exact faultSpan_aside _ _ s
  · exact .refl s

theorem answerWord_aside (b : Burst) (a : Answer) {f : Word → State → State} (h : ∀ w u, Aside u (f w u))
    (s : State) : Aside s (answerWord b a f s) := by
  unfold answerWord
  split
  · split
    · exact haltOnError_aside _ s
    · exact h _ s
  · exact .refl s

theorem followTail_aside (link : Word) (s : State) : Aside s (followTail link s) := by
  unfold followTail
  split
  · exact setEngine_aside _ s
  · exact readOrderHead_aside _ s

theorem answerHeadPointer_aside (b : Burst) (a : Answer) (s : State) : Aside s (answerHeadPointer b a s) :=
  answerWord_aside b a followLink_aside s

theorem answerLink_aside (b : Burst) (a : Answer) (s : State) : Aside s (answerLink b a s) :=
  answerWord_aside b a followLink_aside s

theorem answerTail_aside (b : Burst) (a : Answer) (s : State) : Aside s (answerTail b a s) :=
  answerWord_aside b a followTail_aside s

theorem holdOrder_aside (a : Word) (l : List Byte) (s : State) : Aside s (holdOrder a l s) := by
  unfold holdOrder
  dsimp only
  split
  · exact (modPaint_aside _ s).trans (beginOrder_aside _ _)
  · exact (modPaint_aside _ s).trans (issuePaint_aside _ (noDescriptor_run fun _ => rfl))

theorem passOver_aside (l : List Byte) (s : State) : Aside s (passOver l s) := by
  unfold passOver
  dsimp only
  split
  · exact (modPaint_aside _ s).trans (followLink_aside _ _)
  · exact modPaint_aside _ s

theorem headRead_aside (a : Word) (l : List Byte) (s : State) : Aside s (headRead a l s) := by
  unfold headRead
  split
  · exact (setChainPos_aside _ s).trans (holdOrder_aside _ _ _)
  · exact (setChainPos_aside _ s).trans (passOver_aside _ _)

theorem gather_aside (b : Burst) (off : Nat) (a : Answer) (s : State) : Aside s (gather b off a s) :=
  modPaint_aside _ s

theorem answerOrderHead_aside (b : Burst) (a : Answer) (s : State) : Aside s (answerOrderHead b a s) := by
  unfold answerOrderHead
  split
  · split
    · dsimp only
      split
      · split
        · exact (gather_aside _ _ _ s).trans (haltOnError_aside _ _)
        · exact (gather_aside _ _ _ s).trans (headRead_aside _ _ _)
      · exact gather_aside _ _ _ s
    · exact .refl s
  · exact .refl s

theorem answerRemainder_aside (b : Burst) (a : Answer) (s : State) : Aside s (answerRemainder b a s) := by
  unfold answerRemainder
  split
  · split
    · split
      · exact faultHeld_aside _ s
      · dsimp only
        split
        · exact (gather_aside _ _ _ s).trans (beginOrder_aside _ _)
        · exact gather_aside _ _ _ s
    · exact .refl s
  · exact .refl s

theorem answerHeld_aside (b : Burst) (a : Answer) {f : Held → State → State} (h : ∀ x u, Aside u (f x u))
    (s : State) : Aside s (answerHeld b a f s) := by
  unfold answerHeld
  split
  · exact .refl s
  · split
    · exact .refl s
    · exact .refl s
    · exact tryFinish_aside s
    · split
      · split
        · exact (reportPaint_aside _ _ s).trans (tryFinish_aside _)
        · exact faultHeld_aside _ s
      · split
        · exact tryFinish_aside s
        · exact h _ s

theorem answerActive_aside (b : Burst) (a : Answer) (s : State) : Aside s (answerActive b a s) :=
  answerHeld_aside b a (fun _ u => .refl u) s

theorem takeSource_aside (off : Nat) (d : List Byte) (h : Held) (s : State) : Aside s (takeSource off d h s) := by
  unfold takeSource
  dsimp only
  split
  · exact (modHeld_aside _ s).trans (writeRow_aside _ _)
  · exact modHeld_aside _ s

theorem answerCopyRead_aside (b : Burst) (a : Answer) (s : State) : Aside s (answerCopyRead b a s) := by
  unfold answerCopyRead
  split
  · exact answerHeld_aside b a (takeSource_aside _ _) s
  · exact .refl s

theorem rowWritten_aside (h : Held) (s : State) : Aside s (rowWritten h s) := by
  unfold rowWritten
  split
  · exact .refl s
  · exact nextRow_aside h s

theorem answerPixel_aside (b : Burst) (a : Answer) (s : State) : Aside s (answerPixel b a s) :=
  answerHeld_aside b a rowWritten_aside s

theorem answerStamp_aside (b : Burst) (a : Answer) (s : State) : Aside s (answerStamp b a s) :=
  answerHeld_aside b a (fun _ u => finish_aside _ u) s

theorem notify_aside (h : Held) (f : FinalStatus) (s : State) : Aside s (notify h f s) := by
  unfold notify
  split
  · exact raise_aside _ s
  · exact .refl s

theorem resumeWalk_aside (s : State) : Aside s (resumeWalk s) := by
  unfold resumeWalk
  split
  · exact (modPaint_aside _ s).trans (readHeadPointer_aside rfl _)
  · exact .refl s

theorem closeOrder_aside (h : Held) (f : FinalStatus) (a : Answer) (s : State) : Aside s (closeOrder h f a s) := by
  unfold closeOrder
  split
  · have k : Aside s (notify h f (releaseHeld s)) := (modPaint_aside _ s).trans (notify_aside _ _ _)
    dsimp only
    split
    · exact k.trans (resumeWalk_aside _)
    · split
      · exact k.trans (halt_aside _)
      · exact k.trans (readWord_aside rfl _ _)
  · have k : Aside s (releaseHeld (reportPaint .busFault h.addr s)) := (reportPaint_aside _ _ s).trans (modPaint_aside _ _)
    dsimp only
    split
    · exact k.trans (resumeWalk_aside _)
    · exact k.trans (halt_aside _)

theorem answerFinal_aside (b : Burst) (a : Answer) (s : State) : Aside s (answerFinal b a s) := by
  unfold answerFinal
  split
  · exact .refl s
  · split
    · exact closeOrder_aside _ _ _ s
    · exact .refl s

theorem answerStatus_aside (b : Burst) (a : Answer) (s : State) : Aside s (answerStatus b a s) := by
  unfold answerStatus
  split
  · exact modWriter_aside _ s
  · exact .refl s

theorem loopHalt_aside (s : State) : Aside s (loopHalt s) := by
  unfold loopHalt
  split
  · exact (reportPaint_aside _ _ s).trans (halt_aside _)
  · exact .refl s

theorem issueTimedOut_aside (s : State) : Aside s (issueTimedOut s) := by
  unfold issueTimedOut
  split
  · exact .refl s
  · split
    · exact tryFinish_aside s
    · exact .refl s

theorem nudgeEngine_aside (s : State) : Aside s (nudgeEngine s) := by
  unfold nudgeEngine
  split
  · exact rereadTail_aside s
  · exact .refl s

theorem resumeEngine_aside (s : State) : Aside s (resumeEngine s) := by
  unfold resumeEngine
  split
  · exact (modPaint_aside _ s).trans (rereadTail_aside _)
  · exact raise_aside _ s

/-! ### The load -/

/-- What every operation but a reset does to the load: it stays well formed, and the shown sequence, with a scene once
shown, changes only to a newer one (R5). -/
def KeepsLoad (s t : State) : Prop :=
  LoadWf s →
    LoadWf t ∧
      (s.loader.hasShown = true →
        t.loader.hasShown = true ∧
          (t.loader.shownSeq = s.loader.shownSeq ∨ NewerSeq t.loader.shownSeq s.loader.shownSeq))

/-- The load is kept where the shown sequence and has-shown stand. -/
theorem KeepsLoad.same {s t : State} (h : LoadWf s → LoadWf t) (a : t.loader.hasShown = s.loader.hasShown)
    (b : t.loader.shownSeq = s.loader.shownSeq) : KeepsLoad s t :=
  fun w => ⟨h w, fun e => ⟨a.trans e, .inl b⟩⟩

theorem Aside.shown {s t : State} (k : Aside s t) :
    t.loader.hasShown = s.loader.hasShown ∧ t.loader.shownSeq = s.loader.shownSeq := by
  have e := k.key
  simp only [loadKey, Prod.mk.injEq] at e
  exact ⟨e.2.2.2.2.2.2.1, e.2.2.2.2.2.1⟩

theorem Aside.load {s t : State} (k : Aside s t) : KeepsLoad s t :=
  .same (fun h => h.aside k) k.shown.1 k.shown.2

theorem KeepsLoad.aside {s t u : State} (h : KeepsLoad s t) (k : Aside t u) : KeepsLoad s u := by
  intro w
  obtain ⟨h1, h2⟩ := h w
  refine ⟨h1.aside k, ?_⟩
  rw [k.shown.1, k.shown.2]
  exact h2

theorem Aside.keeps {s t u : State} (h : Aside s t) (k : KeepsLoad t u) : KeepsLoad s u := by
  intro w
  obtain ⟨h1, h2⟩ := k (w.aside h)
  refine ⟨h1, ?_⟩
  rw [h.shown.1, h.shown.2] at h2
  exact h2

/-- A command ignored while RESET_N is asserted, or taken. -/
theorem KeepsLoad.live {f : State → State} {s t : State} (h : live f s = .next t) (k : KeepsLoad s (f s)) :
    KeepsLoad s t := by
  rcases live_cases h with ⟨_, rfl⟩ | ⟨_, rfl⟩
  · exact (Aside.refl _).load
  · exact k

/-! ### The end of a load -/

/-- A load that ends with no descriptor read open leaves the load well formed. -/
theorem endLoad_ends {s : State} (e : openDescriptors s.port = [])
    (n : ∀ st, s.loader.staged = some st →
      st.seq ≠ 0 ∧ (s.loader.hasShown = true → NewerSeq st.seq s.loader.shownSeq))
    (a : ∀ st, s.loader.staged = some st → s.loader.shownSlot ≠ some st.slot)
    (o : ∀ b ∈ otherBursts s.port, b.kind.isDescriptor = false) : LoadWf (endLoad s) :=
  { asked := (congrArg List.length e).symm
    idle := fun _ => rfl
    reads := fun b hb => by
      have hb' := Eq.mp (congrArg (b ∈ ·) e) hb
      cases hb'
    read := fun n hn => absurd (by simp [endLoad, State.modLoader]) hn
    chosen := nofun
    choosing := fun hn => absurd rfl hn
    alone := fun _ => ⟨rfl, rfl, rfl⟩
    newer := n
    apart := a
    elsewhere := o }

theorem endLoad_wf {s : State} (h : LoadWf s) (e : openDescriptors s.port = []) : LoadWf (endLoad s) :=
  endLoad_ends e h.newer h.apart h.elsewhere

theorem LoadWf.noneOpen {s : State} (h : LoadWf s) (e : s.loader.descLeft = 0) : openDescriptors s.port = [] :=
  List.length_eq_zero_iff.mp (h.asked.symm.trans e)

theorem writeRejected_aside (n : Slot) (c : Code) (q : Word) (s : State) : Aside s (writeRejected n c q s) :=
  (issueLoader_aside _ (noDescriptor_one rfl)).trans (raise_aside _ _)

theorem rejectLoad_wf {s : State} (n : Slot) (d : Descriptor) (c : Code) (w : Option Nat) (a : Word) (h : LoadWf s)
    (e : openDescriptors s.port = []) : LoadWf (rejectLoad n d c w a s) := by
  have k : Aside s (reportScene c (some n) w d.seq a (writeRejected n c d.seq s)) :=
    (writeRejected_aside _ _ _ _).trans (report_aside _ _)
  exact endLoad_wf (h.aside k) (k.opens.trans e)

theorem markOffers_aside (l : Loader) (ps : List (Slot × Descriptor)) (s : State) :
    Aside s (ps.foldl (markOffer l) s) := by
  induction ps generalizing s with
  | nil => exact .refl s
  | cons p ps ih =>
    refine Aside.trans ?_ (ih _)
    unfold markOffer
    split
    · exact writeRejected_aside _ _ _ _
    · exact .refl s

/-- Every descriptor read of the port stopped leaves none open. -/
theorem openDescriptors_stopReads {k : BurstKind → Bool} (h : ∀ n, k (.descriptor n) = true) (s : State) :
    openDescriptors (stopReads k s).port = [] := by
  have kd (b : Burst) (d : b.kind.isDescriptor = true) : k b.kind = true := by
    obtain ⟨kind, _, _, _, _, _⟩ := b
    cases kind <;> first | exact h _ | cases d
  refine List.filter_eq_nil_iff.mpr fun b hb => ?_
  simp only [Bool.and_eq_true, Bool.not_eq_true', not_and, Bool.not_eq_false]
  intro d
  rcases List.mem_append.mp hb with hb | hb
  · have hb' : b ∈ match s.port.loader with
        | [] => []
        | c :: rest => (if k c.kind then c.drop else c) :: rest.filter fun c => !k c.kind := hb
    split at hb'
    · cases hb'
    · rename_i c rest _
      rcases List.mem_cons.mp hb' with rfl | hb'
      · by_cases hc : k c.kind = true
        · rw [if_pos hc]
          rfl
        · rw [if_neg hc] at d
          exact absurd (kd _ d) hc
      · have := (List.mem_filter.mp hb').2
        rw [kd b d] at this
        cases this
  · obtain ⟨pl, hp, rfl⟩ := List.mem_map.mp hb
    obtain ⟨q, _, rfl⟩ := List.mem_map.mp (List.mem_filter.mp hp).1
    by_cases hc : k q.burst.kind = true
    · rw [if_pos hc]
      rfl
    · rw [if_neg hc] at d
      exact absurd (kd _ d) hc

theorem bodyKind (b : BurstKind) (h : b.isBody = true) : b.isDescriptor = false := by
  cases b <;> first | rfl | cases h

theorem stopReads_aside {k : BurstKind → Bool} (h : ∀ b, k b = true → b.isDescriptor = false) (s : State) :
    Aside s (stopReads k s) := by
  refine Aside.trans
    (t := s.modPort fun p =>
      { p with
        loader :=
          match p.loader with
          | [] => []
          | b :: rest => (if k b.kind then b.drop else b) :: rest.filter fun c => !k c.kind })
    ⟨rfl, ?_, fun e => e⟩ (dropReads_aside h _)
  unfold State.modPort openDescriptors
  rw [List.filter_append, List.filter_append]
  refine congrArg (· ++ _) ?_
  show List.filter _
      (match s.port.loader with
        | [] => []
        | b :: rest => (if k b.kind then b.drop else b) :: rest.filter fun c => !k c.kind) = _
  generalize s.port.loader = l
  cases l with
  | nil => rfl
  | cons b l =>
    have r : (l.filter fun c => !k c.kind).filter (fun b => b.kind.isDescriptor && !b.dropped) =
        l.filter fun b => b.kind.isDescriptor && !b.dropped := by
      rw [List.filter_filter]
      refine List.filter_congr fun c _ => ?_
      cases hk : k c.kind
      · simp
      · simp [h _ hk]
    dsimp only
    rw [List.filter_cons, List.filter_cons, r]
    by_cases hk : k b.kind = true
    · have d : b.drop.kind.isDescriptor = false := h _ hk
      simp only [hk, if_true, d, h _ hk, Bool.false_and, Bool.false_eq_true, if_false]
    · simp only [hk, if_false, Bool.false_eq_true]

/-! ### The load begun, and its candidate -/

theorem loadAllowed_true {s : State} (h : loadAllowed s = true) : s.loader.staged = none ∧ s.loader.phase = .idle := by
  simp only [loadAllowed, Bool.and_eq_true, Option.isNone_iff_eq_none, beq_iff_eq] at h
  exact ⟨h.1.1.1.2, h.1.1.2⟩

theorem beginLoad_load (s : State) : KeepsLoad s (beginLoad s) := by
  unfold beginLoad
  split
  · rename_i ha
    obtain ⟨h1, h2⟩ := loadAllowed_true ha
    refine .same (fun w => ?_) rfl rfl
    have e := w.noneOpen (w.idle h2)
    have o : openDescriptors { s.port with loader := s.port.loader ++ (slotsToRead s).map (descriptorBurst s) } =
        (slotsToRead s).map (descriptorBurst s) := by
      have e' := e
      unfold openDescriptors at e' ⊢
      rw [List.filter_append] at e' ⊢
      obtain ⟨e1, e2⟩ := List.append_eq_nil_iff.mp e'
      rw [e2, List.append_nil, List.filter_append, e1, List.nil_append]
      refine List.filter_eq_self.mpr fun b hb => ?_
      obtain ⟨n, _, rfl⟩ := List.mem_map.mp hb
      rfl
    exact
      { asked := ((congrArg List.length o).trans (List.length_map _)).symm
        idle := nofun
        reads := fun b hb n hn => by
          have hb' := Eq.mp (congrArg (b ∈ ·) o) hb
          obtain ⟨m, hm, rfl⟩ := List.mem_map.mp hb'
          cases hn
          exact (bne_iff_ne.mp (List.mem_filter.mp hm).2)
        read := fun n hn => absurd (by simp [issueLoader, State.modLoader, State.modPort]) hn
        chosen := nofun
        choosing := fun hn => absurd rfl hn
        alone := fun hn => absurd h1 hn
        newer := w.newer
        apart := w.apart
        elsewhere := w.elsewhere }
  · exact (Aside.refl s).load

/-- R10, R11: the candidate of a descriptor phase is read, and newer than the shown scene. -/
theorem bestOffer_newer {l : Loader} {c : Slot × Descriptor} (h : bestOffer (unmarked l) = some c) :
    l.descs[c.1.val] = some c.2 ∧ c.2.seq ≠ 0 ∧ (l.hasShown = true → NewerSeq c.2.seq l.shownSeq) := by
  have hm := List.mem_filter.mp (bestOffer_mem h)
  have hn : offerMark l c.2 = none := by simpa using hm.2
  rw [offerMark_code] at hn
  unfold offerCode at hn
  split at hn
  · cases hn
  · rename_i hz
    refine ⟨(mem_offers hm.1).1, hz, fun hs => ?_⟩
    by_contra hw
    rw [if_pos ⟨hs, hw⟩] at hn
    cases hn

theorem chooseCandidate_wf {s : State} (w : LoadWf s) (hd : s.loader.descLeft = 0) (hs : s.loader.staged = none) :
    LoadWf (chooseCandidate s) := by
  unfold chooseCandidate
  dsimp only
  have k := markOffers_aside s.loader (offers s.loader) s
  have kl : ((offers s.loader).foldl (markOffer s.loader) s).loader = s.loader := by rw [markOffers_eq _ _ _ _ rfl]
  generalize (offers s.loader).foldl (markOffer s.loader) s = u at *
  have wu := w.aside k
  have eu : openDescriptors u.port = [] := k.opens.trans (w.noneOpen hd)
  split
  · exact endLoad_wf wu eu
  · rename_i c hc
    obtain ⟨h1, h2, h3⟩ := bestOffer_newer hc
    split
    · exact rejectLoad_wf _ _ _ _ _ wu eu
    · unfold beginBody
      refine LoadWf.aside ?_ (issueLoader_aside _ (noDescriptor_run fun _ => rfl))
      rw [← kl] at h1 h3 hd hs
      exact
        { asked := wu.asked
          idle := fun _ => hd
          reads := wu.reads
          read := wu.read
          chosen := fun n d hn hdn => by
            cases hn
            have hdn' := h1.symm.trans hdn
            cases hdn'
            exact ⟨h2, h3⟩
          choosing := fun _ => hd
          alone := fun hn => absurd hs hn
          newer := wu.newer
          apart := wu.apart
          elsewhere := wu.elsewhere }

/-! ### Responses and the load -/

/-- The open descriptor reads among places. -/
def openPlaces (l : List Place) : List Burst :=
  ((l.filter fun pl => !pl.abandoned).map Place.burst).filter fun b => b.kind.isDescriptor && !b.dropped

theorem openPlaces_append (l m : List Place) : openPlaces (l ++ m) = openPlaces l ++ openPlaces m := by
  simp [openPlaces]

theorem openDescriptors_places (p : Port) :
    openDescriptors p = (p.loader.filter fun b => b.kind.isDescriptor && !b.dropped) ++ openPlaces p.reads := by
  simp [openDescriptors, openPlaces]

/-- The places left when those of a tag are freed: one place less. -/
theorem places_free {l : List Place} {pl : Place} (hn : (l.map Place.tag).Nodup) (hm : pl ∈ l) :
    ∃ a b, l = a ++ pl :: b ∧ l.filter (fun q => q.tag != pl.tag) = a ++ b := by
  obtain ⟨a, b, rfl⟩ := List.append_of_mem hm
  refine ⟨a, b, rfl, ?_⟩
  rw [List.map_append, List.map_cons, List.nodup_append] at hn
  obtain ⟨_, h2, h3⟩ := hn
  have ha : a.filter (fun q => q.tag != pl.tag) = a := by
    refine List.filter_eq_self.mpr fun q hq => ?_
    simpa using h3 q.tag (List.mem_map_of_mem hq) pl.tag (by simp)
  have hb : b.filter (fun q => q.tag != pl.tag) = b := by
    refine List.filter_eq_self.mpr fun q hq => ?_
    have := (List.nodup_cons.mp h2).1
    simp only [bne_iff_ne, ne_eq]
    intro e
    exact this (e ▸ List.mem_map_of_mem hq)
  rw [List.filter_append, List.filter_cons, ha, hb]
  simp

/-- A place freed that is no open descriptor read. -/
theorem free_aside {tag : Nat} {s : State}
    (h : ∀ pl ∈ s.port.reads, pl.tag = tag →
      pl.abandoned = true ∨ pl.burst.kind.isDescriptor = false ∨ pl.burst.dropped = true) :
    Aside s (s.modPort (Port.free tag)) := by
  refine ⟨rfl, ?_, fun e b hb => e b ?_⟩
  · rw [openDescriptors_places, openDescriptors_places]
    refine congrArg (s.port.loader.filter _ ++ ·) ?_
    show openPlaces (s.port.reads.filter fun pl => pl.tag != tag) = openPlaces s.port.reads
    generalize s.port.reads = l at h
    induction l with
    | nil => rfl
    | cons pl l ih =>
      have e : openPlaces (pl :: l) = openPlaces [pl] ++ openPlaces l := openPlaces_append [pl] l
      have ih := ih fun q hq => h q (List.mem_cons_of_mem _ hq)
      rw [List.filter_cons]
      split
      · rw [e, ← ih]
        exact openPlaces_append [pl] _
      · rename_i ht
        rw [ih, e]
        have : openPlaces [pl] = [] := by
          have hc := h pl List.mem_cons_self (by simpa using ht)
          cases ha : pl.abandoned
          · rcases hc with hc | hc | hc
            · rw [ha] at hc
              cases hc
            · simp [openPlaces, ha, hc]
            · simp [openPlaces, ha, hc]
          · simp [openPlaces, ha]
        rw [this, List.nil_append]
  · simp only [State.modPort, Port.free, otherBursts, List.mem_append] at hb ⊢
    rcases hb with hb | hb
    · exact .inl hb
    · right
      rcases hw : s.port.write with _ | pl
      · rw [hw] at hb
        cases hb
      · rw [hw] at hb
        simp only [Option.filter] at hb
        split at hb
        · exact hb
        · cases hb

/-- The place that a response finds. -/
theorem find_place {k : BurstKind → Bool} {tag : Nat} {p : Port} {b : Burst} (h : p.find k tag = some b) :
    ∃ pl ∈ p.places, pl.tag = tag ∧ pl.abandoned = false ∧ k pl.burst.kind = true ∧ pl.burst = b := by
  obtain ⟨pl, hp, rfl⟩ := Option.map_eq_some_iff.mp h
  have := List.find?_some hp
  simp only [Bool.and_eq_true, beq_iff_eq, Bool.not_eq_true'] at this
  exact ⟨pl, List.mem_of_find?_eq_some hp, this.1.1, this.1.2, this.2, rfl⟩

/-- Two places of one tag are one. -/
theorem same_place {p : Port} (w : PortWf p) {pl q : Place} (hp : pl ∈ p.places) (hq : q ∈ p.reads)
    (e : q.tag = pl.tag) : pl = q := by
  rcases List.mem_append.mp hp with hp | hp
  · exact List.inj_on_of_nodup_map w.distinct hp hq e.symm
  · have h1 := w.write pl (by simpa using hp)
    have h2 := (w.low q.tag (List.mem_map_of_mem hq)).2
    omega

/-- R163: in a well-formed port, the outstanding burst of a tag is the one whose place has it. -/
theorem find_of_place {k : BurstKind → Bool} {p : Port} {pl : Place} (w : PortWf p) (hp : pl ∈ p.places)
    (ha : pl.abandoned = false) (hk : k pl.burst.kind = true) : p.find k pl.tag = some pl.burst := by
  unfold Port.find
  cases hf : p.places.find? fun q => q.tag == pl.tag && !q.abandoned && k q.burst.kind with
  | none => exact absurd (List.find?_eq_none.mp hf pl hp) (by simp [ha, hk])
  | some q =>
    have hq := List.mem_of_find?_eq_some hf
    have ht := List.find?_some hf
    simp only [Bool.and_eq_true, beq_iff_eq] at ht
    have e : pl = q := by
      rcases List.mem_append.mp hq with h | h
      · exact same_place w hp h ht.1.1
      · rcases List.mem_append.mp hp with h' | h'
        · exact (same_place w hq h' ht.1.1.symm).symm
        · rw [Option.mem_toList] at h h'
          exact Option.some.inj (h'.symm.trans h)
    rw [← e]
    rfl

/-- The response to a burst that is no descriptor read frees its place and no descriptor read's. -/
theorem free_other {k : BurstKind → Bool} {tag : Nat} {b : Burst} {s : State} (w : PortWf s.port)
    (h : s.port.find k tag = some b) (hb : b.kind.isDescriptor = false ∨ b.dropped = true) :
    Aside s (s.modPort (Port.free tag)) := by
  obtain ⟨pl, hp, rfl, _, _, rfl⟩ := find_place h
  exact free_aside fun q hq e => .inr (same_place w hp hq e ▸ hb)

/-- The response to a descriptor read that the load still takes leaves one less of them. -/
theorem free_descriptor {tag : Nat} {b : Burst} {s : State} (w : PortWf s.port) (l : LoadWf s)
    (h : s.port.find BurstKind.isDescriptor tag = some b) (hd : b.dropped = false) :
    b ∈ openDescriptors s.port ∧ b.kind.isDescriptor = true ∧
      (openDescriptors (freed tag s).port).length + 1 = (openDescriptors s.port).length ∧
      (∀ c ∈ openDescriptors (freed tag s).port, c ∈ openDescriptors s.port) ∧
      ∀ c ∈ otherBursts (freed tag s).port, c.kind.isDescriptor = false := by
  obtain ⟨pl, hp, rfl, ha, hk, rfl⟩ := find_place h
  have hr : pl ∈ s.port.reads := by
    rcases List.mem_append.mp hp with hp | hp
    · exact hp
    · have := l.elsewhere pl.burst (List.mem_append_right _ (List.mem_map_of_mem hp))
      rw [this] at hk
      cases hk
  obtain ⟨x, y, h1, h2⟩ := places_free w.distinct hr
  have one : openPlaces [pl] = [pl.burst] := by simp [openPlaces, ha, hk, hd]
  have e1 : openPlaces s.port.reads = openPlaces x ++ (pl.burst :: openPlaces y) := by
    rw [h1, openPlaces_append, ← List.singleton_append (l := y), openPlaces_append, one, List.singleton_append]
  have e2 : openPlaces (freed pl.tag s).port.reads = openPlaces x ++ openPlaces y := by
    rw [← openPlaces_append, ← h2]
    rfl
  have el : (freed pl.tag s).port.loader = s.port.loader := rfl
  refine ⟨?_, hk, ?_, fun c hc => ?_, fun c hc => l.elsewhere c ?_⟩
  · rw [openDescriptors_places, e1]
    simp
  · rw [openDescriptors_places, openDescriptors_places, e1, e2, el]
    simp only [List.length_append, List.length_cons]
    omega
  · rw [openDescriptors_places, e2, el] at hc
    rw [openDescriptors_places, e1]
    simp only [List.mem_append, List.mem_cons] at hc ⊢
    tauto
  · have k : ∀ q ∈ (s.port.write.filter fun q => q.tag != pl.tag).toList, q ∈ s.port.write.toList := by
      intro q hq
      simp only [Option.mem_toList, Option.filter_eq_some_iff] at hq ⊢
      exact hq.1
    simp only [freed, State.modPort, Port.free, otherBursts, List.mem_append, List.mem_map] at hc ⊢
    rcases hc with hc | ⟨q, hq, rfl⟩
    · exact .inl hc
    · exact .inr ⟨q, k q hq, rfl⟩

theorem reportScene_aside (c : Code) (n : Option Slot) (w : Option Nat) (q a : Word) (s : State) :
    Aside s (reportScene c n w q a s) :=
  report_aside _ s

/-- An ERROR on a descriptor read ends the load, whatever stands in the port. -/
theorem answerDescriptor_error (b : Burst) (s : State) : KeepsLoad s (answerDescriptor b none s) := by
  unfold answerDescriptor
  split
  · exact .same
      (fun w => endLoad_ends (openDescriptors_stopReads (fun _ => rfl) s) w.newer w.apart w.elsewhere) rfl rfl
  · exact (Aside.refl s).load

/-- The answer to a descriptor read. -/
theorem answerDescriptor_freed {tag : Nat} {b : Burst} {a : Answer} {s : State} (w : PortWf s.port)
    (h : s.port.find BurstKind.isDescriptor tag = some b) (hd : b.dropped = false) :
    KeepsLoad s (answerDescriptor b a (freed tag s)) := by
  have keep : (answerDescriptor b a (freed tag s)).loader.hasShown = s.loader.hasShown ∧
      (answerDescriptor b a (freed tag s)).loader.shownSeq = s.loader.shownSeq := by
    unfold answerDescriptor
    split
    · split
      · exact ⟨rfl, rfl⟩
      · dsimp only
        split
        · unfold chooseCandidate
          dsimp only
          rw [markOffers_eq _ _ _ _ rfl]
          split
          · exact ⟨rfl, rfl⟩
          · split <;> exact ⟨rfl, rfl⟩
        · exact ⟨rfl, rfl⟩
    · exact ⟨rfl, rfl⟩
  refine .same (fun l => ?_) keep.1 keep.2
  obtain ⟨hm, hk, hlen, hsub, hoth⟩ := free_descriptor w l h hd
  have pos : 0 < (openDescriptors s.port).length := List.length_pos_of_mem hm
  have left : s.loader.descLeft ≠ 0 := by
    have := l.asked
    omega
  have noStaged : s.loader.staged = none := by
    by_contra hs
    exact left (l.alone hs).2.1
  have noCandidate : s.loader.candidate = none := by
    by_contra hs
    exact left (l.choosing hs)
  unfold answerDescriptor
  split
  · rename_i n hn
    split
    · exact endLoad_ends (openDescriptors_stopReads (fun _ => rfl) (freed tag s)) l.newer l.apart hoth
    · rename_i data
      dsimp only
      have key : LoadWf ((freed tag s).modLoader fun l =>
          { l with descs := l.descs.set n.val (some (parseDescriptor data)), descLeft := l.descLeft - 1 }) :=
        { asked := by
            show s.loader.descLeft - 1 = (openDescriptors (freed tag s).port).length
            have := l.asked
            omega
          idle := fun hi => absurd (l.idle hi) left
          reads := fun c hc => l.reads c (hsub c hc)
          read := fun m hm' => by
            show s.loader.shownSlot ≠ some m
            by_cases e : n = m
            · exact e ▸ l.reads b hm n hn
            · refine l.read m fun hz => hm' ?_
              show (s.loader.descs.set n.val (some (parseDescriptor data)))[m.val] = none
              rw [Vector.getElem_set_ne _ _ (fun e' => e (Fin.ext e'))]
              exact hz
          chosen := fun m d hm' => absurd (noCandidate.symm.trans hm') nofun
          choosing := fun hc => absurd noCandidate hc
          alone := fun hs => absurd noStaged hs
          newer := l.newer
          apart := l.apart
          elsewhere := hoth }
      split
      · rename_i hz
        exact chooseCandidate_wf key hz noStaged
      · exact key
  · rename_i hn
    exfalso
    obtain ⟨kind, _, _, _, _, _⟩ := b
    cases kind <;> first | exact hn _ rfl | cases hk

/-- R14: the answer to a body read. -/
theorem answerBody_load (b : Burst) (a : Answer) (s : State) : KeepsLoad s (answerBody b a s) := by
  unfold answerBody
  split
  · split
    · refine .same (fun w => ?_) rfl rfl
      exact
        { asked := w.asked
          idle := fun h => w.idle (by
            change (if s.loader.bodyLeft - 1 = 0 then LoaderPhase.checking else s.loader.phase) = .idle at h
            split at h
            · cases h
            · exact h)
          reads := w.reads
          read := w.read
          chosen := w.chosen
          choosing := w.choosing
          alone := w.alone
          newer := w.newer
          apart := w.apart
          elsewhere := w.elsewhere }
    · split
      · exact (Aside.refl s).load
      · rename_i c hc
        have k := stopReads_aside bodyKind s
        refine .same (fun w => ?_) rfl rfl
        have hn : s.loader.candidate ≠ none := by
          intro h
          unfold candidateOf at hc
          rw [h] at hc
          cases hc
        exact rejectLoad_wf _ _ _ _ _ (w.aside k) (k.opens.trans (w.noneOpen (w.choosing hn)))
  · exact (Aside.refl s).load

/-! ### Staging, take-over and entry to OFF -/

/-- The candidate in hand. -/
theorem candidateOf_some {l : Loader} {c : Slot × Descriptor} (h : candidateOf l = some c) :
    l.candidate = some c.1 ∧ l.descs[c.1.val] = some c.2 := by
  unfold candidateOf at h
  split at h
  · cases h
  · rename_i n hn
    obtain ⟨d, hd, rfl⟩ := Option.map_eq_some_iff.mp h
    exact ⟨hn, hd⟩

/-- R16: the candidate staged. -/
theorem stage_load {c : Slot × Descriptor} (im : SceneImage) {s : State} (hc : candidateOf s.loader = some c) :
    KeepsLoad s (stage c.1 c.2 im s) := by
  obtain ⟨h1, h2⟩ := candidateOf_some hc
  unfold stage
  refine KeepsLoad.aside ?_ (retestHold_aside _)
  refine .same (fun w => ?_) rfl rfl
  have e := w.noneOpen (w.choosing (by rw [h1]; exact nofun))
  refine LoadWf.aside (endLoad_ends
    (s := s.modLoader fun l =>
      { l with stagedTable := im.windows,
               staged := some { slot := c.1, seq := c.2.seq, minFrames := im.minFrames, bg := im.bg, skip := l.skip } })
    e (fun st h => ?_) (fun st h => ?_) w.elsewhere) ⟨rfl, rfl, fun h => h⟩
  · obtain rfl := Option.some.inj h
    exact w.chosen _ _ h1 h2
  · obtain rfl := Option.some.inj h
    exact w.read _ (by rw [h2]; exact nofun)

theorem completeChecks_load (s : State) : KeepsLoad s (completeChecks s) := by
  unfold completeChecks
  split
  · split
    · exact (Aside.refl s).load
    · rename_i c hc
      split
      · refine .same (fun w => ?_) rfl rfl
        exact rejectLoad_wf _ _ _ _ _ w (w.noneOpen (w.choosing (by rw [(candidateOf_some hc).1]; exact nofun)))
      · exact stage_load _ hc
  · exact (Aside.refl s).load

theorem noDescriptor_slotWrites {bs : List Burst} (h : ∀ b ∈ bs, ∃ n q a, b.kind = .slotWrite n q a) :
    NoDescriptor bs := by
  intro b hb
  obtain ⟨n, q, a, e⟩ := h b hb
  rw [e]
  rfl

/-- R18, R19: the staged scene taken over, which is newer than the shown one (R5). -/
theorem takeOver_load {st : Staged} {s : State} (hs : s.loader.staged = some st) : KeepsLoad s (takeOver st s) := by
  unfold takeOver
  have k : Aside s (settleLoader (issueLoader (takeOverWrites st s) s)) := by
    refine (issueLoader_aside s (noDescriptor_slotWrites fun b hb => ?_)).trans (settleLoader_aside _)
    unfold takeOverWrites at hb
    simp only [List.mem_append, List.mem_map, List.mem_singleton] at hb
    rcases hb with (⟨n, _, rfl⟩ | ⟨n, _, rfl⟩) | rfl <;> exact ⟨_, _, _, rfl⟩
  have e : (settleLoader (issueLoader (takeOverWrites st s) s)).loader = s.loader := settleLoader_loader _
  refine k.keeps ?_
  generalize settleLoader (issueLoader (takeOverWrites st s) s) = u at *
  refine KeepsLoad.aside ?_ ((raise_aside _ _).trans (modComp_aside _ _))
  rw [← e] at hs
  intro w
  obtain ⟨h1, h2, h3⟩ := w.alone (by rw [hs]; exact nofun)
  have o := w.noneOpen h2
  refine ⟨?_, fun hh => ⟨rfl, .inr ((w.newer st hs).2 hh)⟩⟩
  exact
    { asked := w.asked
      idle := fun _ => h2
      reads := fun b hb => by
        have hb' := Eq.mp (congrArg (b ∈ ·) o) hb
        cases hb'
      read := fun n hn => absurd (by
        show u.loader.descs[n.val] = none
        rw [h3]
        simp) hn
      chosen := fun n d hn => absurd (h1.symm.trans hn) nofun
      choosing := fun _ => h2
      alone := fun hn => absurd rfl hn
      newer := nofun
      apart := nofun
      elsewhere := w.elsewhere }

theorem runOn_aside (s : State) : Aside s (runOn s) := by
  unfold runOn
  split
  · exact ⟨rfl, rfl, fun h => h⟩
  · exact .refl s

/-- R26: the loader's reads withdrawn or discarded. -/
theorem openDescriptors_withdrawLoader (s : State) : openDescriptors (withdrawLoader s).port = [] := by
  have kd (b : Burst) (d : b.kind.isDescriptor = true) : b.kind.isLoaderRead = true := by
    obtain ⟨kind, _, _, _, _, _⟩ := b
    cases kind <;> first | rfl | cases d
  refine List.filter_eq_nil_iff.mpr fun b hb => ?_
  simp only [Bool.and_eq_true, Bool.not_eq_true', not_and, Bool.not_eq_false]
  intro d
  rcases List.mem_append.mp hb with hb | hb
  · have := (List.mem_filter.mp hb).2
    rw [kd b d] at this
    cases this
  · obtain ⟨pl, hp, rfl⟩ := List.mem_map.mp hb
    obtain ⟨q, _, rfl⟩ := List.mem_map.mp (List.mem_filter.mp hp).1
    by_cases hc : q.burst.kind.isLoaderRead = true
    · rw [if_pos hc]
      rfl
    · rw [if_neg hc] at d
      exact absurd (kd _ d) hc

theorem loaderOff_load (s : State) : KeepsLoad s (loaderOff s) := by
  unfold loaderOff
  dsimp only
  have e := openDescriptors_withdrawLoader (endLoad s)
  have l : (withdrawLoader (endLoad s)).loader = (endLoad s).loader := rfl
  have o : otherBursts (withdrawLoader (endLoad s)).port = otherBursts s.port := rfl
  generalize withdrawLoader (endLoad s) = u at *
  generalize hb : (s.loader.shownSlot.toList.map fun n => slotWordBurst s n 3 .none s.loader.shownSeq true) = bs
  have k : Aside u (settleLoader (issueLoader bs u)) := by
    refine (issueLoader_aside u (noDescriptor_slotWrites fun b h => ?_)).trans (settleLoader_aside _)
    subst hb
    obtain ⟨n, _, rfl⟩ := List.mem_map.mp h
    exact ⟨_, _, _, rfl⟩
  have lv : (settleLoader (issueLoader bs u)).loader = (endLoad s).loader := (settleLoader_loader _).trans l
  generalize settleLoader (issueLoader bs u) = v at *
  have key := k.opens.trans e
  have hs : v.loader.hasShown = s.loader.hasShown := by
    rw [lv]
    rfl
  have hq : v.loader.shownSeq = s.loader.shownSeq := by
    rw [lv]
    rfl
  refine .same (fun w => ?_) hs hq
  have d : v.loader.descLeft = 0 := congrArg Loader.descLeft lv
  have hd : v.loader.descs = Vector.replicate 4 none := congrArg Loader.descs lv
  have hc : v.loader.candidate = none := congrArg Loader.candidate lv
  exact
    { asked := d.trans (congrArg List.length key).symm
      idle := fun _ => d
      reads := fun b hb => by
        have hb' := Eq.mp (congrArg (b ∈ ·) key) hb
        cases hb'
      read := fun n hn => nofun
      chosen := fun n _ hn => absurd (hc.symm.trans hn) nofun
      choosing := fun _ => d
      alone := fun hn => absurd rfl hn
      newer := nofun
      apart := nofun
      elsewhere := k.others (by rw [o]; exact w.elsewhere) }

/-! ### The scan timing unit's operations that reach the load -/

theorem enterOff_load (s : State) : KeepsLoad s (enterOff s) :=
  (loaderOff_load s).aside
    (((((modComp_aside _ _).trans (fetchOff_aside _)).trans (modScan_aside _ _)).trans (askOffBlock_aside _ _)).trans
      (endFenceAtOff_aside _) |>.trans (retestHold_aside _))

theorem requestOutput_load (t : OutputTarget) (s : State) : KeepsLoad s (requestOutput t s) := by
  unfold requestOutput requestOff requestPark requestRun
  split <;> split
  all_goals
    first
    | exact (Aside.refl s).load
    | exact enterOff_load s
    | exact (enterParked_aside s).load
    | exact (((endLocking_aside s).trans (discardTiming_aside _)).trans (enterParked_aside _)).load
    | exact (setOutput_aside _ s).load
    | exact (enterLocking_aside _ s).load

theorem requestPaint_aside (p : Bool) (s : State) : Aside s (requestPaint p s) := by
  unfold requestPaint
  split
  · exact paintOn_aside s
  · exact paintOff_aside s

theorem presentRun_load (o : Bool) (t : OutputTarget) (p : Bool) (s : State) : KeepsLoad s (presentRun o t p s) := by
  unfold presentRun
  split
  · exact (requestOutput_load _ _).aside (requestPaint_aside _ _)
  · exact (requestPaint_aside _ _).keeps (requestOutput_load _ _)

theorem acceptRun_load (t : OutputTarget) (p : Bool) (m : FaultMode) (s : State) : KeepsLoad s (acceptRun t p m s) :=
  KeepsLoad.aside (t := presentRun (Config.runOutputFirst s.freeIdx) t p (setRun t p m s))
    (Aside.keeps (t := setRun t p m s) (modRegs_aside _ s) (presentRun_load _ _ _ _)) (.of_eq rfl rfl)

theorem writeRun_load (v : Word) (s : State) : KeepsLoad s (writeRun v s) := by
  unfold writeRun
  split
  · exact (raise_aside _ s).load
  · split
    · exact (raise_aside _ s).load
    · exact acceptRun_load _ _ _ s

theorem lockTaken_load (c : Bool) (s : State) : KeepsLoad s (lockTaken c s) := by
  unfold lockTaken
  split
  · split
    · exact (Aside.refl s).load
    · refine KeepsLoad.aside (Aside.keeps ?_ (beginLoad_load _)) (latchPaint_aside _ _)
      exact (((endLocking_aside s).trans (modScan_aside _ _)).trans (setOutput_aside _ _)).trans (raise_aside _ _)
  · exact (Aside.refl s).load

theorem latch_load (s : State) : KeepsLoad s (latch s) := by
  unfold latch
  split
  · rename_i t lp _ _
    split
    · split
      · exact KeepsLoad.aside (t := beginLoad (decideMark t (advanceFrame lp s)))
          (Aside.keeps (t := decideMark t (advanceFrame lp s)) (.of_eq rfl rfl) (beginLoad_load _))
          ((latchPaint_aside _ _).trans (askBlock_aside _))
      · exact (((Aside.of_eq (s := s) (t := advanceFrame lp s) rfl rfl).trans (latchPaint_aside true _)).trans
          ((Aside.of_eq (s := latchPaint true (advanceFrame lp s)) (t := scanParked (latchPaint true (advanceFrame lp s)))
            rfl rfl).trans (enterParked_aside _))).load
      all_goals exact (Aside.refl s).load
    · exact (Aside.refl s).load
  · exact (Aside.refl s).load

theorem endFetch_aside (s : State) : Aside s (endFetch s) := by
  unfold endFetch
  dsimp only
  split
  · exact ((endBursts_aside s).trans (modFetch_aside _ _)).trans (raise_aside _ _)
  · exact (endBursts_aside s).trans (modFetch_aside _ _)

theorem lineStart_aside (s : State) : Aside s (lineStart s) := by
  unfold lineStart
  split
  · rename_i t lp _ _
    split
    · refine Aside.trans (t := scanLine t (nextLine t lp.line) s) (.of_eq rfl rfl) ?_
      unfold composeLine
      split
      · dsimp only
        split
        · exact ((endFetch_aside _).trans (takeList_aside _)).trans (formLine_aside _ _ _)
        · exact (endFetch_aside _).trans (takeList_aside _)
      · exact modComp_aside _ _
    · exact .refl s
  · exact .refl s

theorem frameOpens_load (s : State) : KeepsLoad s (frameOpens s) := by
  unfold frameOpens
  split
  · split
    · rename_i lp _ _ _
      unfold openFrame
      split
      · rename_i hs
        refine KeepsLoad.aside (Aside.keeps (t := openTaken lp s) (modScan_aside _ s) (takeOver_load hs)) ?_
        exact (((clearFlags_aside _).trans (formLine_aside _ _ _)).trans (testFence_aside _)).trans (retestHold_aside _)
      · exact ((((modScan_aside _ s).trans (runOn_aside _)).trans (clearFlags_aside _)).trans (formLine_aside _ _ _)).load
    · exact (Aside.refl s).load
  · exact (Aside.refl s).load

/-! ### Responses, grants and resets -/

/-- A response whose kinds are none of a descriptor read's, and whose answer keeps the load. -/
theorem respond_load {k : BurstKind → Bool} {tag : Nat} {r : Response} {f : Burst → Answer → State → State}
    {s : State} (w : PortWf s.port) (h : ∀ b, k b = true → b.isDescriptor = false) (hf : ∀ b a u, KeepsLoad u (f b a u)) :
    KeepsLoad s (respond k tag r f s) := by
  unfold respond
  split
  · exact (Aside.refl s).load
  · rename_i b hb
    have kb : b.kind.isDescriptor = false := by
      obtain ⟨pl, _, _, _, hk, rfl⟩ := find_place hb
      exact h _ hk
    have a := free_other w hb (.inl kb)
    split
    · split
      · exact a.load
      · exact a.keeps (hf _ _ _)
    · exact (Aside.refl s).load

theorem respondDescriptor_load {tag : Nat} {r : Response} {s : State} (w : PortWf s.port) :
    KeepsLoad s (respond BurstKind.isDescriptor tag r answerDescriptor s) := by
  unfold respond
  split
  · exact (Aside.refl s).load
  · rename_i b hb
    split
    · split
      · exact (free_other w hb (.inr (by assumption))).load
      · exact answerDescriptor_freed w hb (by simpa using (by assumption : ¬b.dropped = true))
    · exact (Aside.refl s).load

/-- The answer ERROR to a burst past the top of the address space, handed over at its grant (R161). -/
theorem answerBurst_error (b : Burst) (s : State) : KeepsLoad s (answerBurst b none s) := by
  unfold answerBurst
  split
  · exact (answerTiming_aside b none s).load
  · exact answerDescriptor_error b s
  · exact answerBody_load b none s
  · exact (answerSlotWrite_aside b none s).load
  · exact (answerSpan_aside b none s).load
  · exact (answerHeadPointer_aside b none s).load
  · exact (answerOrderHead_aside b none s).load
  · exact (answerRemainder_aside b none s).load
  · exact (answerLink_aside b none s).load
  · exact (answerTail_aside b none s).load
  · exact (answerActive_aside b none s).load
  · exact (answerCopyRead_aside b none s).load
  · exact (answerPixel_aside b none s).load
  · exact (answerStamp_aside b none s).load
  · exact (answerFinal_aside b none s).load
  · exact (answerStatus_aside b none s).load

/-- R169: the response to an abandoned place. -/
theorem takeAbandoned_aside {tag : Nat} {s : State} (w : PortWf s.port) : Aside s (takeAbandoned tag s) := by
  unfold takeAbandoned
  split
  · rename_i h
    obtain ⟨pl, hp, hc⟩ := List.any_eq_true.mp h
    simp only [Bool.and_eq_true, beq_iff_eq] at hc
    exact free_aside fun q hq e => .inl (same_place w hp hq (e.trans hc.1.symm) ▸ hc.2)
  · exact .refl s

/-- The burst that is granted is the one its requester presents. -/
theorem winner_presented {p : Port} {q : Requester} {b : Burst} (h : p.winner = some (q, b)) : p.presented q = some b := by
  obtain ⟨q', _, hq⟩ := List.exists_of_findSome?_eq_some h
  split at hq
  · rename_i c hc
    split at hq
    · cases hq
      exact hc
    · cases hq
  · cases hq

/-- The presented burst of another requester than the loader taken from it. -/
theorem pop_aside {q : Requester} (h : q ≠ .loader) (s : State) : Aside s (s.modPort (Port.pop q)) := by
  cases q with
  | loader => exact absurd rfl h
  | fetch | status | paint =>
    refine withdrawn_aside rfl rfl rfl fun b hb => ?_
    simp only [State.modPort, Port.pop, otherBursts, List.mem_append] at hb ⊢
    have := @List.mem_of_mem_tail _ b
    tauto

/-- The open descriptor reads when the loader's presented burst `b` has been taken from it. -/
theorem openDescriptors_pop {p : Port} {b : Burst} (h : p.presented .loader = some b) :
    openDescriptors p = ([b].filter fun b => b.kind.isDescriptor && !b.dropped) ++ openDescriptors (p.pop .loader) := by
  have h : p.loader.head? = some b := h
  obtain ⟨rest, hr⟩ : ∃ rest, p.loader = b :: rest := by
    cases hl : p.loader with
    | nil =>
      rw [hl] at h
      cases h
    | cons c rest =>
      rw [hl] at h
      cases h
      exact ⟨rest, rfl⟩
  have e : (p.pop .loader).loader = rest := by
    simp only [Port.pop, hr, List.tail_cons]
  have r : (p.pop .loader).reads = p.reads := rfl
  rw [openDescriptors_places, openDescriptors_places, e, r, hr, ← List.singleton_append, List.filter_append,
    List.append_assoc]

/-- A granted burst that is no open descriptor read takes its place. -/
theorem occupy_aside {b : Burst} (h : b.kind.isDescriptor = false ∨ b.dropped = true) (s : State) :
    Aside s (s.modPort (Port.occupy b)) := by
  by_cases hw : b.kind.isWrite = true
  · have hk : b.kind.isDescriptor = false := by
      obtain ⟨kind, _, _, _, _, _⟩ := b
      cases kind <;> first | rfl | cases hw
    refine ⟨rfl, ?_, fun e c hc => ?_⟩
    · unfold State.modPort Port.occupy
      rw [if_pos hw]
      rfl
    · simp only [State.modPort, Port.occupy, hw, if_true, otherBursts, List.mem_append] at hc e
      rcases hc with hc | hc
      · exact e c (.inl hc)
      · rw [List.mem_singleton.mp hc]
        exact hk
  · refine ⟨rfl, ?_, fun e c hc => e c ?_⟩
    · rw [openDescriptors_places, openDescriptors_places]
      unfold State.modPort Port.occupy
      rw [if_neg hw]
      dsimp only
      rw [openPlaces_append]
      rcases h with h | h <;> simp [openPlaces, h]
    · simp only [State.modPort, Port.occupy, hw, otherBursts, Bool.false_eq_true, if_false] at hc ⊢
      exact hc

theorem grant_load (s : State) : KeepsLoad s (grant s) := by
  unfold grant
  split
  · exact (Aside.refl s).load
  · rename_i q b hw
    have hp := winner_presented hw
    intro l
    by_cases hd : b.kind.isDescriptor = false ∨ b.dropped = true
    · refine Aside.keeps (t := settleLoader (s.modPort (Port.pop q))) (Aside.trans ?_ (settleLoader_aside _)) ?_ l
      · by_cases hq : q = .loader
        · subst hq
          refine ⟨rfl, ?_, fun e => e⟩
          rw [openDescriptors_pop hp]
          rcases hd with hd | hd <;> simp [hd]
        · exact pop_aside hq s
      · unfold runGranted
        split
        · split
          · exact (Aside.refl _).load
          · exact answerBurst_error _ _
        · exact (occupy_aside hd _).load
    · simp only [not_or, Bool.not_eq_false, Bool.not_eq_true] at hd
      obtain ⟨hk, hn⟩ := hd
      have hq : q = .loader := by
        cases q with
        | loader => rfl
        | fetch | status | paint =>
          have := l.elsewhere b (by
            have := List.mem_of_mem_head? hp
            simp only [List.mem_append]
            tauto)
          rw [this] at hk
          cases hk
      subst hq
      have e : openDescriptors s.port = b :: openDescriptors (s.modPort (Port.pop .loader)).port := by
        rw [openDescriptors_pop hp]
        simp [hk, hn, State.modPort]
      have a := settleLoader_aside (s.modPort (Port.pop .loader))
      have lo : (settleLoader (s.modPort (Port.pop .loader))).loader = s.loader := settleLoader_loader _
      have o := a.others l.elsewhere
      generalize settleLoader (s.modPort (Port.pop .loader)) = u at *
      have e' := e.trans (congrArg (b :: ·) a.opens.symm)
      unfold runGranted
      split
      · rw [if_neg (by rw [hn]; exact Bool.false_ne_true)]
        obtain ⟨kind, addr, len, data, beyond, dropped⟩ := b
        cases kind with
        | descriptor n =>
          refine ⟨endLoad_ends (openDescriptors_stopReads (fun _ => rfl) u) ?_ ?_ o, fun hh => ⟨?_, .inl ?_⟩⟩
          · have ln := l.newer
            rw [← lo] at ln
            exact ln
          · have la := l.apart
            rw [← lo] at la
            exact la
          · rw [← lo] at hh
            exact hh
          · rw [← lo]
            rfl
        | _ => cases hk
      · have hr : b.kind.isWrite = false := by
          obtain ⟨kind, _, _, _, _, _⟩ := b
          cases kind <;> first | rfl | cases hk
        have eo : openDescriptors (u.modPort (Port.occupy b)).port = openDescriptors u.port ++ [b] := by
          rw [openDescriptors_places, openDescriptors_places]
          unfold State.modPort Port.occupy
          rw [if_neg (by rw [hr]; exact Bool.false_ne_true)]
          dsimp only
          rw [openPlaces_append, List.append_assoc]
          simp [openPlaces, hk, hn]
        refine KeepsLoad.same (fun l => l.of_key (congrArg loadKey lo) ?_ ?_ ?_) (congrArg Loader.hasShown lo)
          (congrArg Loader.shownSeq lo) l
        · rw [eo, e']
          simp
        · rw [eo, e']
          simp only [List.mem_append, List.mem_cons, List.not_mem_nil, or_false]
          tauto
        · simpa only [State.modPort, Port.occupy, hr, otherBursts, Bool.false_eq_true, if_false] using o

/-- What a reset does to the load: it leaves it well formed, with has-shown false and the shown sequence 0 (R5). -/
def ClearsLoad (s t : State) : Prop :=
  LoadWf s → LoadWf t ∧ t.loader.hasShown = false ∧ t.loader.shownSeq = 0

/-- The two resets leave no load in hand and nothing shown. -/
theorem reset_load {s t : State} (h : t.loader = Loader.reset) (e : openDescriptors t.port = [])
    (o : LoadWf s → ∀ b ∈ otherBursts t.port, b.kind.isDescriptor = false) : ClearsLoad s t := by
  intro l
  have d : t.loader.descLeft = 0 := by rw [h]; rfl
  have c : t.loader.candidate = none := by rw [h]; rfl
  have n : t.loader.shownSlot = none := by rw [h]; rfl
  have g : t.loader.staged = none := by rw [h]; rfl
  refine ⟨?_, by rw [h]; rfl, by rw [h]; rfl⟩
  exact
    { asked := d.trans (congrArg List.length e).symm
      idle := fun _ => d
      reads := fun b hb => by
        rw [e] at hb
        cases hb
      read := fun m _ => by
        rw [n]
        exact nofun
      chosen := fun m _ hm => absurd (c.symm.trans hm) nofun
      choosing := fun _ => d
      alone := fun hs => absurd g hs
      newer := fun st hs => absurd (g.symm.trans hs) nofun
      apart := fun st hs => absurd (g.symm.trans hs) nofun
      elsewhere := o l }

theorem softReset_load (s : State) : ClearsLoad s (resetSoft s) := by
  refine reset_load rfl ?_ fun l b hb => ?_
  · rw [openDescriptors_places]
    simp [resetSoft, Port.softReset, openPlaces]
  · simp only [resetSoft, Port.softReset, otherBursts, List.nil_append] at hb
    cases hw : s.port.write with
    | none =>
      rw [hw] at hb
      cases hb
    | some pl =>
      rw [hw] at hb
      rw [List.mem_singleton.mp hb]
      exact l.elsewhere _ (by simp [hw])

theorem hardReset_load (s : State) : ClearsLoad s (resetHard s) := by
  refine reset_load rfl ?_ fun _ b hb => ?_
  · rw [openDescriptors_places]
    simp [resetHard, Port.hardReset, openPlaces, Port.reset]
  · simp [resetHard, Port.hardReset, otherBursts, Port.reset] at hb

/-! ### The register window, the fault unit and the status writer -/

theorem clearLatch_aside (s : State) : Aside s (clearLatch s) := by
  unfold clearLatch
  split
  · exact .of_eq rfl rfl
  · exact .refl s

/-- A host write other than that of the action SOFT_RESET. -/
theorem hostWrite_load {o v : Word} (h : ¬(o = 0x0C ∧ v = 4)) (s : State) : KeepsLoad s (hostWrite o v s) := by
  unfold hostWrite
  split
  · unfold writeDirBase
    split
    · exact (modRegs_aside _ s).load
    · exact (raise_aside _ s).load
  · exact writeRun_load _ s
  · rename_i ho
    unfold writeAction
    split
    · exact (nudgeEngine_aside s).load
    · exact (clearLatch_aside s).load
    · exact (resumeEngine_aside s).load
    · exact absurd ⟨BitVec.eq_of_toNat_eq ho, BitVec.eq_of_toNat_eq (by assumption)⟩ h
    · exact (raise_aside _ s).load
  · exact (modRegs_aside _ s).load
  · exact (modRegs_aside _ s).load
  · exact (Aside.refl s).load

theorem takeReport_aside (source : Source) (s : State) : Aside s (takeReport source s) := by
  unfold takeReport
  split
  · exact .refl s
  · dsimp only
    split
    · unfold countReport
      split <;> exact .of_eq rfl rfl
    · exact .of_eq rfl rfl

theorem beginBlock_aside (s : State) : Aside s (beginBlock s) := by
  unfold beginBlock
  split
  · refine (modWriter_aside _ s).trans (issueStatus_aside _ fun b hb => ?_)
    simp only [blockBursts, List.mem_cons, List.not_mem_nil, or_false] at hb
    rcases hb with rfl | rfl | rfl <;> rfl
  · exact .refl s

theorem beginRecord_aside (s : State) : Aside s (beginRecord s) := by
  unfold beginRecord
  split
  · refine (modWriter_aside _ s).trans (issueStatus_aside _ fun b hb => ?_)
    unfold recordBursts at hb
    split at hb <;> simp only [List.mem_cons, List.not_mem_nil, or_false] at hb <;> rcases hb with rfl | rfl <;> rfl
  · exact .refl s

theorem beginCount_aside (s : State) : Aside s (beginCount s) := by
  unfold beginCount
  split
  · exact (modWriter_aside _ s).trans (issueStatus_aside _ (noDescriptor_one rfl))
  · exact .refl s

end Sys2Proof.Machine
end

