-- ==== Sys2Proof/Laws/Orders.lean ====
section
/-! SUPPORT. What the release of a held order and the test of a waiting fence come to (R140, R142), and the overlap of two
rectangles (R136, R139). -/

namespace Sys2Proof.Machine

/-- R136, R139: two rectangles intersect when a pixel lies in both. -/
theorem Rect.intersects_iff (a b : Rect) : a.intersects b = true ↔ ∃ x y, InRect x y a ∧ InRect x y b := by
  simp only [Rect.intersects, InRect, Bool.and_eq_true, decide_eq_true_eq]
  constructor
  · rintro ⟨_, _⟩
    exact ⟨max a.x b.x, max a.y b.y, by omega, by omega⟩
  · rintro ⟨x, y, _, _⟩
    omega

/-- R137, R138: the first row of an order in hand begins, with the engine EXECUTING. -/
theorem startRow_begun {h : Held} {s : State} (hh : s.paint.held = some h) :
    RowBegun h s (startRow (setEngine .executing s)) := by
  have e : (setEngine .executing s).paint.held = some h := hh
  refine ⟨?_, fun f hf => ?_, fun c hc => ?_⟩
  · unfold startRow
    split
    · rfl
    · split <;> rfl
  · unfold startRow
    rw [e]
    dsimp only
    rw [hf]
    exact ⟨e, rfl⟩
  · unfold startRow
    rw [e]
    dsimp only
    rw [hc]
    refine ⟨rfl, List.replicate (c.rowPixels * formatBytes c.src.format) 0, ?_, ?_⟩
    · rw [List.length_replicate, CopyFields.rowPixels, CopyFields.turned]
      simp only [Bool.or_eq_true, beq_iff_eq]
    · show (s.paint.held.map _) = _
      rw [hh, ← hc]
      rfl

/-- A test against the in-view table, seen from states that agree on what it reads and writes. -/
theorem HoldTested.congr {h : Held} {s s' u u' : State} (k : HoldTested h s u) (hp : s'.paint = s.paint)
    (hb : s'.port.paint = s.port.paint) (up : u'.paint = u.paint) (ub : u'.port.paint = u.port.paint)
    (ul : u'.loader.inView = u.loader.inView) : HoldTested h s' u' := by
  unfold HoldTested RowBegun at *
  rw [hp, hb, up, ub, ul]
  exact k

/-- R140: the test of a HELD order. -/
theorem retestHold_tested {h : Held} {s : State} (he : s.paint.engine = .held) (hh : s.paint.held = some h) :
    HoldTested h s (retestHold s) := by
  have e : retestHold s = if h.order.inView s.loader.inView then s else startRow (setEngine .executing s) := by
    unfold retestHold
    rw [if_pos he, hh]
  unfold HoldTested
  rw [(retestHold_paintOnly s).loader]
  refine ⟨fun k => ?_, fun k => ?_⟩
  · rw [e, k]
    exact startRow_begun hh
  · rw [e, if_pos k]
    exact ⟨rfl, rfl⟩

/-- R142, R143, R145: an order in RUNNING ended by its fence. -/
theorem finish_ends {f : FinalStatus} {h : Held} {s : State} (hh : s.paint.held = some h) (hp : h.phase = .running) :
    FenceEnds f h s (finish f s) := by
  unfold FenceEnds
  rw [writeWaits_iff]
  cases hw : orderWritesOpen s
  · rw [finish_closes hh hp hw]
    exact ⟨rfl, fun _ => ⟨rfl, rfl⟩, fun k => absurd k (by decide)⟩
  · rw [finish_waits hh hw]
    exact ⟨rfl, fun k => absurd rfl k, fun _ => ⟨rfl, rfl⟩⟩

/-- A fence's end, seen from states that agree on what it reads and writes. -/
theorem FenceEnds.congr {f : FinalStatus} {h : Held} {s s' u u' : State} (k : FenceEnds f h s u)
    (hp : s'.paint = s.paint) (hb : s'.port.paint = s.port.paint) (hw : s'.port.write = s.port.write)
    (up : u'.paint = u.paint) (ub : u'.port.paint = u.port.paint) : FenceEnds f h s' u' := by
  unfold FenceEnds WriteWaits at *
  rw [hp, hb, hw, up, ub]
  exact k

/-- A fence's test, seen from states that agree on what it reads and writes. -/
theorem FenceTested.congr {h : Held} {s s' u u' : State} (k : FenceTested h s u) (hp : s'.paint = s.paint)
    (hb : s'.port.paint = s.port.paint) (hw : s'.port.write = s.port.write) (up : u'.paint = u.paint)
    (ub : u'.port.paint = u.port.paint) (ul : u'.loader = u.loader)
    (uf : u'.scan.frameCounter = u.scan.frameCounter) : FenceTested h s' u' := by
  unfold FenceTested FenceEnds FenceHolds WriteWaits at *
  rw [hp, hb, hw, up, ub, ul, uf]
  exact k

/-- What a test of the engine's fence comes to, the fence's condition once decided. -/
theorem fence_tested {h : Held} {s u : State} (hl : u.loader = s.loader) (hs : u.scan = s.scan)
    (k : ∀ condition value timeout, s.paint.engine = .waiting → s.paint.held = some h →
      h.order = .fence condition value timeout → u = if fenceTrue condition value s then finish .done s else s)
    (hh : s.paint.held = some h) : FenceTested h s u := by
  intro condition value timeout he hp _ ho
  have e := k condition value timeout he hh ho
  have hF : FenceHolds condition value u ↔ fenceTrue condition value s = true := by
    rw [fenceTrue_iff]
    unfold FenceHolds
    rw [hl, hs]
  rw [hF]
  refine ⟨fun f => ?_, fun f => ?_⟩
  · rw [e, if_pos f]
    exact finish_ends hh hp
  · rw [e, if_neg f]
    exact ⟨rfl, rfl⟩

/-- R142: the test of a waiting fence at a take-over. -/
theorem testFence_tested {h : Held} {s : State} (hh : s.paint.held = some h) : FenceTested h s (testFence s) :=
  fence_tested (testFence_paintOnly s).loader (testFence_paintOnly s).scan
    (fun condition value timeout he hh ho => by simp [testFence, he, hh, ho]) hh

/-- R67, R142: the test of a waiting fence at the entry to RUNNING, which does not count. -/
theorem latchPaint_tested {h : Held} {s : State} (hh : s.paint.held = some h) :
    FenceTested h s (latchPaint false s) :=
  fence_tested (latchPaint_paintOnly false s).loader (latchPaint_paintOnly false s).scan
    (fun condition value timeout he hh ho => by simp [latchPaint, latchFence, he, hh, ho]) hh

/-- R117, R126: the tail re-read. -/
theorem rereadTail_reread (s : State) : TailReread s (rereadTail s) := by
  unfold TailReread rereadTail
  split <;> exact ⟨rfl, rfl⟩

/-- R66, R67, R117: an engine AT_TAIL at a latch point. -/
theorem latchPaint_reread (counted : Bool) {s : State} (h : s.paint.engine = .atTail) :
    TailReread s (latchPaint counted s) := by
  unfold latchPaint
  rw [if_pos h]
  exact rereadTail_reread s

/-- A tail re-read, seen from states that agree on what it reads and writes. -/
theorem TailReread.congr {s s' u u' : State} (k : TailReread s u) (hp : s'.paint = s.paint)
    (hb : s'.port.paint = s.port.paint) (hd : s'.regs.dirBase = s.regs.dirBase) (up : u'.paint = u.paint)
    (ub : u'.port.paint = u.port.paint) : TailReread s' u' := by
  unfold TailReread at *
  rw [hp, hb, hd, up, ub]
  exact k

/-- An engine that does not wait is not changed by a fence test. -/
theorem testFence_other {s : State} (h : s.paint.engine ≠ .waiting) : testFence s = s := by
  unfold testFence
  rw [if_neg h]

/-- An engine that holds no order back is not changed by the test against the in-view table. -/
theorem retestHold_other {s : State} (h : s.paint.engine ≠ .held) : retestHold s = s := by
  unfold retestHold
  rw [if_neg h]

/-- A fence's test leaves no order held back. -/
theorem testFence_waiting {s : State} (h : s.paint.engine = .waiting) : (testFence s).paint.engine ≠ .held := by
  have k : ∀ u : State, (finish .done u).paint.engine ≠ .held := by
    intro u
    unfold finish tryFinish
    split
    · simp [settleFinal, setEngine, modHeld, State.modPaint]
    · split
      · simp [settleFinal, setEngine, modHeld, State.modPaint]
      · split <;> simp [settleFinal, setEngine, modHeld, State.modPaint, issuePaint, State.modPort]
  unfold testFence
  rw [if_pos h]
  split
  · split
    · exact k s
    · simp [h]
  · simp [h]

end Sys2Proof.Machine
end

