-- ==== Sys2Proof/Laws/Requests.lean ====
section
/-! SUPPORT. What an output request leaves of the paint engine, what a PAINT 0 makes of it, and when a PAINT field asks
for a status block. -/

namespace Sys2Proof.Machine

/-! ### What leaves the paint engine as it is -/

theorem KeepsGranted.of_eq {s u : State} (h : u.port.reads = s.port.reads) (k : u.port.write = s.port.write) :
    KeepsGranted s u :=
  ⟨by rw [h], fun _ _ => by rw [h], k⟩

theorem KeepsGranted.trans {s t u : State} (h : KeepsGranted s t) (k : KeepsGranted t u) : KeepsGranted s u :=
  ⟨k.places.trans h.places, fun pl hp => (k.reads pl hp).trans (h.reads pl hp), k.write.trans h.write⟩

theorem KeepsPaint.refl (s : State) : KeepsPaint s s :=
  ⟨rfl, rfl, .of_eq rfl rfl⟩

theorem KeepsPaint.trans {s t u : State} (h : KeepsPaint s t) (k : KeepsPaint t u) : KeepsPaint s u :=
  ⟨k.engine.trans h.engine, k.presented.trans h.presented, h.granted.trans k.granted⟩

theorem KeepsPaint.of_eq {s u : State} (h1 : u.paint = s.paint) (h2 : u.port.paint = s.port.paint)
    (h3 : u.port.reads = s.port.reads) (h4 : u.port.write = s.port.write) : KeepsPaint s u :=
  ⟨h1, h2, .of_eq h3 h4⟩

/-- Reads marked to be discarded are the same places. -/
theorem map_unmark_drop (k : BurstKind → Bool) (l : List Place) :
    (l.map fun pl => if k pl.burst.kind then { pl with burst := pl.burst.drop } else pl).map Place.unmark =
      l.map Place.unmark := by
  rw [List.map_map]
  refine List.map_congr_left fun pl _ => ?_
  dsimp only [Function.comp_apply]
  split <;> rfl

/-- Marking reads of other blocks leaves the paint engine. -/
theorem KeepsPaint.of_drop {s u : State} (k : BurstKind → Bool) (hk : ∀ b, k b = true → b.requester ≠ .paint)
    (h1 : u.paint = s.paint) (h2 : u.port.paint = s.port.paint)
    (h3 : u.port.reads =
      s.port.reads.map fun pl => if k pl.burst.kind then { pl with burst := pl.burst.drop } else pl)
    (h4 : u.port.write = s.port.write) : KeepsPaint s u := by
  refine ⟨h1, h2, by rw [h3, map_unmark_drop], fun pl hp => ?_, h4⟩
  rw [h3, List.mem_map]
  constructor
  · rintro ⟨q, hq, rfl⟩
    split at hp
    · rename_i h
      exact absurd hp (hk _ h)
    · rename_i h
      rwa [if_neg h]
  · exact fun h => ⟨pl, h, if_neg fun hc => hk _ hc hp⟩

theorem settleLoader_keepsPaint (s : State) : KeepsPaint s (settleLoader s) := by
  unfold settleLoader
  split
  · exact .of_eq rfl rfl rfl rfl
  · exact .refl s

theorem loaderOff_keepsPaint (s : State) : KeepsPaint s (loaderOff s) := by
  have h : KeepsPaint s (withdrawLoader (endLoad s)) :=
    .of_drop BurstKind.isLoaderRead (fun b => by cases b <;> simp [BurstKind.isLoaderRead, BurstKind.requester])
      rfl rfl rfl rfl
  have k : KeepsPaint (withdrawLoader (endLoad s))
      (issueLoader (s.loader.shownSlot.toList.map fun n => slotWordBurst s n 3 .none s.loader.shownSeq true)
        (withdrawLoader (endLoad s))) := .of_eq rfl rfl rfl rfl
  exact ((h.trans k).trans (settleLoader_keepsPaint _)).trans (.of_eq rfl rfl rfl rfl)

theorem fetchOff_keepsPaint (s : State) : KeepsPaint s (fetchOff s) :=
  .of_drop BurstKind.isSpan (fun b => by cases b <;> simp [BurstKind.isSpan, BurstKind.requester]) rfl rfl rfl rfl

theorem askOffBlock_keepsPaint (shown : Option Slot) (s : State) : KeepsPaint s (askOffBlock shown s) := by
  unfold askOffBlock
  split
  · exact .of_eq rfl rfl rfl rfl
  · exact .refl s

/-- R64: the entry to OFF up to its effects on the paint engine. -/
theorem enterOff_before (s : State) :
    KeepsPaint s (askOffBlock s.loader.shownSlot (scanOff (fetchOff (compOff (loaderOff s))))) := by
  have comp : KeepsPaint (loaderOff s) (compOff (loaderOff s)) := .of_eq rfl rfl rfl rfl
  have scan (u : State) : KeepsPaint u (scanOff u) := .of_eq rfl rfl rfl rfl
  exact ((((loaderOff_keepsPaint s).trans comp).trans (fetchOff_keepsPaint _)).trans (scan _)).trans
    (askOffBlock_keepsPaint _ _)

/-- R64, R126, R127: the entry to OFF leaves an engine that is neither WAITING nor HELD. -/
theorem enterOff_keepsPaint {s : State} (h1 : s.paint.engine ≠ .waiting) (h2 : s.paint.engine ≠ .held) :
    KeepsPaint s (enterOff s) := by
  have k := enterOff_before s
  have e : enterOff s = askOffBlock s.loader.shownSlot (scanOff (fetchOff (compOff (loaderOff s)))) := by
    rw [← k.engine] at h1 h2
    unfold enterOff
    rw [endFenceAtOff, if_neg h1, retestHold, if_neg h2]
  rw [e]
  exact k

theorem requestPark_keepsPaint (s : State) : KeepsPaint s (requestPark s) := by
  unfold requestPark
  split
  · exact .of_eq rfl rfl rfl rfl
  · exact .of_drop BurstKind.isTiming (fun b => by cases b <;> simp [BurstKind.isTiming, BurstKind.requester])
      rfl rfl rfl rfl
  · exact .refl s
  · exact .of_eq rfl rfl rfl rfl
  · exact .refl s

theorem requestRun_keepsPaint (s : State) : KeepsPaint s (requestRun s) := by
  unfold requestRun
  split <;> first | exact .refl s | exact .of_eq rfl rfl rfl rfl

/-- R127: no output request but an OFF taken in WAITING or HELD changes the paint engine. -/
theorem requestOutput_keepsPaint {t : OutputTarget} {s : State}
    (h : t = .off → s.scan.output ≠ .off → s.paint.engine ≠ .waiting ∧ s.paint.engine ≠ .held) :
    KeepsPaint s (requestOutput t s) := by
  cases t
  · show KeepsPaint s (requestOff s)
    unfold requestOff
    split <;> first
      | exact .refl s
      | exact enterOff_keepsPaint (h rfl (by simp [*])).1 (h rfl (by simp [*])).2
  · exact requestPark_keepsPaint s
  · exact requestRun_keepsPaint s

/-- R175: a PAINT field that asks for what the engine is doing is no request. -/
theorem requestPaint_idle {p : Bool} {s : State} (h : p = true ↔ s.paint.engine ≠ .stopped) : requestPaint p s = s := by
  unfold requestPaint
  split
  · exact if_neg (h.mp ‹_›)
  · exact if_pos (by_contra fun hn => ‹¬p = true› (h.mpr hn))

theorem tryFinish_writer (s : State) : (tryFinish s).writer = s.writer := by
  unfold tryFinish
  repeat' split
  all_goals rfl

theorem setChainPos_writer (a : Word) (s : State) :
    (setChainPos a s).writer = if s.paint.chainPos = a then s.writer else { s.writer with wantBlock := true } := by
  unfold setChainPos
  dsimp only
  split <;> rfl

/-- R111, R112: a PAINT field asks for a status block by the walk it starts, where that clears the chain position, and by
nothing else. -/
theorem requestPaint_writer (p : Bool) (s : State) :
    (requestPaint p s).writer =
      if p = true ∧ s.paint.engine = .stopped ∧ s.paint.chainPos ≠ 0 then { s.writer with wantBlock := true }
      else s.writer := by
  cases p with
  | false =>
    rw [if_neg fun h => Bool.false_ne_true h.1]
    show (paintOff s).writer = _
    unfold paintOff
    split
    · rfl
    · dsimp only
      split
      · rfl
      · unfold clearHeld
        split
        · rfl
        · exact tryFinish_writer _
        · rfl
        · rfl
  | true =>
    show (paintOn s).writer = _
    unfold paintOn
    by_cases he : s.paint.engine = .stopped
    · rw [if_pos he]
      have k := setChainPos_writer 0 (s.modPaint fun p => { p with engine := .loading, passedOver := 0 })
      have e : (setChainPos 0 (s.modPaint fun p => { p with engine := .loading, passedOver := 0 })).writer =
          if true = true ∧ s.paint.engine = .stopped ∧ s.paint.chainPos ≠ 0 then { s.writer with wantBlock := true }
          else s.writer := by
        rw [k]
        by_cases hc : s.paint.chainPos = 0
        · rw [if_neg (fun h => h.2.2 hc : ¬(true = true ∧ s.paint.engine = .stopped ∧ s.paint.chainPos ≠ 0))]
          exact if_pos hc
        · rw [if_pos (⟨rfl, he, hc⟩ : true = true ∧ s.paint.engine = .stopped ∧ s.paint.chainPos ≠ 0)]
          exact if_neg hc
      dsimp only
      split
      · exact e
      · exact e
    · rw [if_neg he, if_neg fun h => he h.2.1]

/-! ### PAINT 0 (R121) -/

theorem PaintStopped.before {s t u : State} (k : KeepsPaint s t) (h : PaintStopped t u) : PaintStopped s u :=
  ⟨k.engine ▸ h.engine, h.places.trans k.granted.places, h.reads, h.write.trans k.granted.write⟩

theorem PaintStopped.after {s t u : State} (h : PaintStopped s t) (k : KeepsPaint t u) : PaintStopped s u :=
  ⟨k.engine ▸ h.engine, k.granted.places.trans h.places, fun pl hp hk => h.reads pl ((k.granted.reads pl hk).mp hp) hk,
    k.granted.write.trans h.write⟩

theorem PaintStopped.isStopped {s u : State} (h : PaintStopped s u) : u.paint.engine = .stopped := by
  rw [h.engine]

theorem PaintCleared.before {s t u : State} (k : KeepsPaint s t) (h : PaintCleared t u) : PaintCleared s u := by
  have hw : EngineWriteOut t ↔ EngineWriteOut s := by
    unfold EngineWriteOut
    rw [k.granted.write]
  obtain ⟨h1, h2, h3, h4, h5⟩ := h
  rw [k.engine] at h2 h3 h4 h5
  rw [k.presented] at h2 h3 h4 h5
  rw [hw] at h5
  exact ⟨h1.before k, h2, h3, h4, h5⟩

theorem PaintCleared.after {s t u : State} (h : PaintCleared s t) (k : KeepsPaint t u) : PaintCleared s u := by
  obtain ⟨h1, h2, h3, h4, h5⟩ := h
  rw [← k.engine] at h2 h3 h4 h5
  rw [← k.presented] at h2 h3 h4 h5
  exact ⟨h1.after k, h2, h3, h4, h5⟩

theorem tryFinish_paint (s : State) : (tryFinish s).paint = { s.paint with held := (tryFinish s).paint.held } := by
  unfold tryFinish
  split
  · rfl
  · split
    · rfl
    · split <;> rfl

/-- R121: PAINT 0 taken in any state but STOPPED. -/
theorem paintOff_cleared {s : State} (he : s.paint.engine ≠ .stopped) : PaintCleared s (paintOff s) := by
  have hrd := paintOff_reads he
  have hw := (paintOff_paintOnly s).pwrite
  have main : paintOff s =
      match s.paint.held with
      | none => withdrawPaint (s.modPaint fun p => { p with engine := .stopped, reenable := false })
      | some h => clearHeld h (withdrawPaint (s.modPaint fun p => { p with engine := .stopped, reenable := false })) := by
    unfold paintOff
    exact if_neg he
  generalize hu : withdrawPaint (s.modPaint fun p => { p with engine := .stopped, reenable := false }) = u at main
  have u1 : u.paint = { s.paint with engine := .stopped, reenable := false } := by subst hu; rfl
  have u2 : u.port.paint = s.port.paint.filter fun b => b.kind == .final := by subst hu; rfl
  have u3 : u.port.write = s.port.write := by subst hu; rfl
  clear hu
  have com : (paintOff s).paint = { u.paint with held := (paintOff s).paint.held } := by
    rw [main]
    split
    · rfl
    · unfold clearHeld
      split
      · rfl
      · rw [tryFinish_paint]
        rfl
      · rfl
      · rfl
  rw [u1] at com
  refine ⟨⟨com, ?_, ?_, hw⟩, fun hn => ?_, fun h hh hp => ?_, fun h hh hp => ?_, fun h hh hp hnf => ?_⟩
  · rw [hrd]
    exact map_unmark_drop (fun k => k.requester == .paint) _
  · intro pl hpl hk
    rw [hrd] at hpl
    obtain ⟨q, _, rfl⟩ := List.mem_map.mp hpl
    split
    · rfl
    · rename_i hn
      rw [if_neg hn] at hk
      exact absurd (beq_iff_eq.mpr hk) hn
  · simp only [main, hn, u1]
    exact ⟨trivial, u2⟩
  · simp only [main, hh, clearHeld, hp]
    exact ⟨rfl, u2⟩
  · simp only [main, hh, clearHeld]
    rcases hp with hp | hp <;> simp [hp, modHeld, State.modPaint, u1, hh, u2]
  · have hfil : u.port.paint = [] := by
      rw [u2, List.filter_eq_nil_iff]
      exact fun b hb => by simpa using hnf b hb
    have e : paintOff s = tryFinish (modHeld (fun h => { h with decided := some .aborted, oldWalk := true }) u) := by
      simp only [main, hh, clearHeld, hp]
    have hwo : orderWritesOpen (modHeld (fun h => { h with decided := some .aborted, oldWalk := true }) u) =
        s.port.write.any fun pl => !pl.abandoned && pl.burst.kind.requester == .paint := by
      simp [orderWritesOpen, modHeld, hfil, u3]
    have hh' : (modHeld (fun h => { h with decided := some .aborted, oldWalk := true }) u).paint.held =
        some { h with decided := some .aborted, oldWalk := true } := by
      simp [modHeld, State.modPaint, u1, hh]
    refine ⟨?_, fun hn => ?_⟩
    · rintro ⟨pl, p1, p2, p3⟩
      rw [e, tryFinish_waits (by rw [hwo, p1]; simp [p2, p3])]
      exact ⟨hh', hfil⟩
    · have hno : (s.port.write.any fun pl => !pl.abandoned && pl.burst.kind.requester == .paint) = false := by
        cases hwr : s.port.write with
        | none => rfl
        | some pl =>
          by_contra hc
          simp only [Option.any_some, Bool.not_eq_false, Bool.and_eq_true, Bool.not_eq_true', beq_iff_eq] at hc
          exact hn ⟨pl, hwr, hc.1, hc.2⟩
      rw [e, tryFinish_closes hh' (.inl hp) rfl (by rw [hwo, hno])]
      refine ⟨rfl, ?_⟩
      show u.port.paint ++ _ = _
      rw [hfil]
      rfl

end Sys2Proof.Machine
end

