-- ==== Sys2Proof/Tests/Slice0.lean ====
section
/-! SUPPORT. Checks of the model's own work: ill-formed operands, the worked examples of the spec, and for every
statement of Obligations.lean with hypotheses a state and operands that meet them together. -/

namespace Sys2Proof.Tests

open Sys2Proof.Machine

/-! ### States to test on -/

/-- OFF and STOPPED, with the control block at 0x80000 (12). -/
def dk : State :=
  { State.reset with regs := { Regs.reset with dirBase := 0x80000 } }

/-- The 800 by 480 timing of section 3.4.1, with a frame mark in every frame. -/
def tm : Timing :=
  { w := 800, h := 480, b := 160, v := 45, div := 6, outWidth := 18, hsyncHigh := false, vsyncHigh := false,
    idle := ⟨0, 0, 0⟩, markDiv := 1, markDelay := 5, tag := 7 }

def outputs (o : OutputState) (s : State) : State :=
  { s with scan := { s.scan with output := o } }

def engine (e : EngineState) (s : State) : State :=
  { s with paint := { s.paint with engine := e } }

/-- The scan of `o` at a line, with the events of its line start that are still due. -/
def scanAt (o : OutputState) (line period : Nat) (latchDue openDue : Bool) (s : State) : State :=
  { s with
    scan := { s.scan with output := o, timing := some tm, line := some ⟨line, period, latchDue, openDue⟩ } }

/-- In LOCKING from `o`, in a lock phase. -/
def locking (o : Origin) (p : LockPhase) (s : State) : State :=
  { s with scan := { s.scan with output := .locking, origin := some o, lockPhase := some p, timing := some tm } }

/-- One read outstanding, under tag 0. -/
def reads (b : Burst) (s : State) : State :=
  { s with port := { s.port with reads := [⟨0, b, false⟩] } }

/-- One write outstanding. -/
def writes (b : Burst) (s : State) : State :=
  { s with port := { s.port with write := some ⟨writeTag 0, b, false⟩ } }

def zeros (n : Nat) : List Byte :=
  List.replicate n 0

/-- A held order, in RUNNING with no status decided. -/
def held (o : Order) : Held :=
  { addr := 0x4000, kind := 3, flags := 1, order := o, phase := .running, decided := none, oldWalk := false, row := 0,
    src := [], srcLeft := 0 }

def holds (h : Held) (s : State) : State :=
  { s with paint := { s.paint with held := some h } }

/-- A FILL of two rows of one RGB565 pixel. -/
def fill : FillFields :=
  { dst := { base := 0x100000, pitch := 8, format := 1, w := 4, h := 4 }, rect := ⟨0, 0, 1, 2⟩,
    colour := ⟨255, 0, 0⟩ }

/-- A COPY of a 3 by 2 rectangle, turned by 90 degrees and mirrored (section 7.10). -/
def copy : CopyFields :=
  { src := { base := 0x100000, pitch := 8, format := 1, w := 4, h := 4 },
    dst := { base := 0x200000, pitch := 16, format := 2, w := 4, h := 4 },
    rotation := 1, mirror := true, sx := 0, sy := 0, w := 3, h := 2, dx := 0, dy := 0 }

/-- The engine HELD with the order `o`, or WAITING with it. -/
def heldBack (o : Order) (s : State) : State :=
  holds (held o) (engine .held s)

def waits (o : Order) (s : State) : State :=
  holds (held o) (engine .waiting s)

/-- The scene of slot 2 shown. -/
def shown (s : State) : State :=
  { s with loader := { s.loader with shownSlot := some 2, shownSeq := 40, hasShown := true } }

/-- The loader's presented burst and those behind it. -/
def queued (bs : List Burst) (s : State) : State :=
  { s with port := { s.port with loader := bs } }

/-- A slot write of slot 1 that asks for the status block when it is presented. -/
def askingWrite : Burst :=
  burstAt (.slotWrite 1 42 true) 0x80040 4 [2, 0, 0, 0]

/-- The engine with a chain position. -/
def chained (s : State) : State :=
  { s with paint := { s.paint with chainPos := 0x4000 } }

def descriptor0 : Burst :=
  burstAt (.descriptor 0) 0x80020 20 []

/-- A FENCE that is never true of `dk`: it waits for a shown sequence, and nothing is shown. -/
def fence (timeout : Word) : Order :=
  .fence 1 7 timeout

/-- The outcome is the next state `s`. -/
def becomes (o : Host.Outcome State Fault Refusal) (s : State) : Bool :=
  match o with
  | .next t => t == s
  | .fault _ => false
  | .refused _ => false

/-! ### Ill-formed operands -/

theorem test_readTag_ill : (Instr.timingReadResponse 8 .error).wellFormed = false := by decide

theorem test_readBeats_ill : (Instr.spanBurstResponse 0 (.ok (zeros 4))).wellFormed = false := by decide

theorem test_readBeatsEmpty_ill : (Instr.spanBurstResponse 0 (.ok [])).wellFormed = false := by decide

theorem test_readBeatsLong_ill : (Instr.spanBurstResponse 0 (.ok (zeros 72))).wellFormed = false := by decide

theorem test_writeTag_ill : (Instr.slotWriteResponse 0 .error).wellFormed = false := by decide

theorem test_writeData_ill : (Instr.slotWriteResponse (writeTag 0) (.ok [0])).wellFormed = false := by decide

theorem test_otherOffset_ill : (Instr.registerWriteOther 0x02 0).wellFormed = false := by decide

theorem test_otherRow_ill : (Instr.registerWriteOther 0x08 0).wellFormed = false := by decide

theorem test_otherAction_ill : (Instr.registerWriteOther 0x0C 4).wellFormed = false := by decide

theorem test_abandonedBeats_ill : (Instr.abandonedResponse 0 (.ok [0])).wellFormed = false := by decide

theorem test_secondResetTag_ill : (Instr.timingReadResponse (writeTag 1) .error).wellFormed = false := by decide

theorem test_wellFormed :
    (Instr.registerWriteOther 0x0C 5).wellFormed = true ∧
      (Instr.abandonedResponse (writeTag 0) (.ok [])).wellFormed = true ∧
      (Instr.spanBurstResponse 7 (.ok (zeros 64))).wellFormed = true := by decide

/-! ### Worked examples of the spec -/

/-- R36: "the nine ASCII bytes of the digits 1 to 9 alone ... gives 0xE306_9283". -/
theorem test_crc : crc [0x31, 0x32, 0x33, 0x34, 0x35, 0x36, 0x37, 0x38, 0x39] = 0xE3069283 := by decide +kernel

/-- Section 4.9: pixel (651, 60). -/
theorem test_blend : blend 12 ⟨255, 255, 0⟩ ⟨132, 130, 132⟩ = ⟨224, 224, 33⟩ := by decide

/-- Section 4.9: 0x8410, 0xF81F and 0xFFE0 expanded. -/
theorem test_expand :
    expand565 0x8410 = ⟨132, 130, 132⟩ ∧ expand565 0xF81F = ⟨255, 0, 255⟩ ∧
      expand565 0xFFE0 = ⟨255, 255, 0⟩ := by
  decide

/-- Section 4.9: the pixels on 18 data lines. -/
theorem test_format :
    formatPixel 18 ⟨132, 130, 132⟩ = 33 * 4096 + 32 * 64 + 33 ∧
      formatPixel 18 ⟨224, 224, 33⟩ = 56 * 4096 + 56 * 64 + 8 := by
  decide

/-- The ticker of sections 4.10 and 5.8. -/
def ticker (step : Int) : Surface :=
  { format := .xrgb8888, base := 0x200000, pitch := 9600, srcX := 0, srcY := 0, key := none, ring := some ⟨0, 0, 2400, 48⟩,
    motion := some ⟨step, 0⟩, view := ⟨0, 0, 2400, 48⟩ }

/-- Section 4.10: panel column 799 at offset column 2000, row 20 at line 420, and a step of -3 from column 0. -/
theorem test_ring :
    sourceCol ⟨0, 400, 800, 48⟩ (ticker 2) (some ⟨2000, 0⟩) 799 = 399 ∧
      sourceRow ⟨0, 400, 800, 48⟩ (ticker 2) (some ⟨2000, 0⟩) 420 = 20 ∧
      advanceOffset ⟨16, ⟨0, 400, 800, 48⟩, .surface (ticker (-3))⟩ (some ⟨0, 0⟩) = some ⟨2397, 0⟩ ∧
      advanceOffset ⟨16, ⟨0, 400, 800, 48⟩, .surface (ticker 2)⟩ (some ⟨2398, 0⟩) = some ⟨0, 0⟩ := by decide

/-- Section 5.8: the two pieces of the wrapped span, and their bursts after the next advance. -/
theorem test_pieces :
    spanPieces (ticker 2) (some ⟨2000, 0⟩) 20 800 = [(0x230D40, 1600), (0x22EE00, 1600)] ∧
      ((spanPieces (ticker 2) (some ⟨2002, 0⟩) 20 800).map fun p => (cutRun (p.2 / 64 + 2) p.1 p.2).length) =
        [25, 26] := by
  decide +kernel

/-- R97: 800 pixels from ring column 250 of a ring 300 columns wide. -/
theorem test_ringPieces : ringPieces 800 250 800 300 = [(250, 50), (0, 300), (0, 300), (0, 150)] := by decide +kernel

/-- Section 5.7: 1440 bytes from a multiple of 64 make 23 bursts, the last of 32 bytes. -/
theorem test_bursts :
    (cutRun 24 0x107080 1440).length = 23 ∧ (cutRun 24 0x107080 1440).getLast? = some (0x107600, 32) ∧
      (cutRun 7 0x303200 320).length = 5 := by decide +kernel

/-- Section 7.10: the destination rows read f c, e b and d a. -/
theorem test_copy :
    [copy.sourceOf 0 0, copy.sourceOf 1 0, copy.sourceOf 0 1, copy.sourceOf 1 1, copy.sourceOf 0 2, copy.sourceOf 1 2] =
      [(2, 1), (2, 0), (1, 1), (1, 0), (0, 1), (0, 0)] := by decide

/-- Section 7.10: pure green written as XRGB8888. -/
theorem test_convert : convertPixel .rgb565 .xrgb8888 (le16 0x07E0) = [0x00, 0xFF, 0x00, 0x00] := by decide

/-- The window 2 record of section 2.6, at its offsets of section 11.3.1. -/
def tickerRecord : List Byte :=
  [2, 2, 16, 6] ++ le16 0 ++ le16 400 ++ le16 800 ++ le16 48 ++ le32 0x200000 ++ le32 9600 ++ le16 2400 ++ le16 48 ++
    le16 0 ++ le16 0 ++ le16 0 ++ le16 0 ++ le16 2400 ++ le16 48 ++ [0xFE, 0xFF, 0, 0]

theorem test_record :
    tickerRecord.length = 40 ∧ recordLength tickerRecord 0 = 40 ∧ (parseRecord tickerRecord 0).firstFailing = none ∧
      windowOf (parseRecord tickerRecord 0) = ⟨16, ⟨0, 400, 800, 48⟩, .surface (ticker (-2))⟩ := by decide +kernel

/-- The bytes 1, 2, 3 and so on, in which every field of a record has a value of its own. -/
def counting (n : Nat) : List Byte :=
  (List.range n).map fun i => BitVec.ofNat 8 (i + 1)

/-- The fields of the tables of 11.2.1, 11.2.2 and 11.4, from the bytes of those tables. -/
theorem test_fields :
    parseTiming (counting 24) =
        { w := 0x0201, h := 0x0403, b := 0x0605, v := 7, div := 8, outWidth := 9, hsyncHigh := false, vsyncHigh := true,
          markDiv := 11, markDelay := 0x0E0D, idle := ⟨0x13, 0x12, 0x11⟩, tag := 0x18171615 } ∧
      parseDescriptor (counting 20) = ⟨1, 0x08070605, 0x0C0B0A09, 0x100F0E0D, 0x14131211⟩ ∧
      parseOrder 1 (counting 40) =
        .copy
          { src := ⟨0x04030201, 0x08070605, 0x0D, 0x0A09, 0x0C0B⟩, dst := ⟨0x1C1B1A19, 0x201F1E1D, 0x0E, 0x2221, 0x2423⟩,
            rotation := 0x0F, mirror := false, sx := 0x1211, sy := 0x1413, w := 0x1615, h := 0x1817, dx := 0x2625,
            dy := 0x2827 } ∧
      parseOrder 2 (counting 24) =
        .fill
          { dst := ⟨0x04030201, 0x0605, 7, 0x0A09, 0x0C0B⟩, rect := ⟨0x0E0D, 0x100F, 0x1211, 0x1413⟩,
            colour := ⟨0x17, 0x16, 0x15⟩ } ∧
      parseOrder 3 (counting 12) = .fence 1 0x08070605 0x0C0B0A09 ∧
      parseOrder 4 (counting 8) = .stamp 0x04030201 0x08070605 ∧ parseOrder 5 (counting 40) = .unknown := by
  decide +kernel

/-- A body of one FILL window, and a body whose ninth byte is a kind that does not exist. -/
def body (kind : Byte) : List Byte :=
  [1, 0, 0, 0, 0, 0, 0, 0, kind, 0, 16, 0] ++ le16 0 ++ le16 0 ++ le16 800 ++ le16 480 ++ [0x40, 0x20, 0x10, 0]

def descriptor (kind : Byte) : Descriptor :=
  { state := 1, seq := 43, bodyAddr := 0x90000, bodyLen := 24, check := checkValue 43 24 (body kind) }

theorem test_scene :
    checkScene (descriptor 1) (body 1) =
        .ok { minFrames := 1, bg := ⟨0, 0, 0⟩, windows := [⟨16, ⟨0, 0, 800, 480⟩, .fill ⟨0x10, 0x20, 0x40⟩⟩] } ∧
      checkScene (descriptor 3) (body 3) = .error (.kindBad, some 0) ∧
      checkScene { descriptor 1 with check := 0 } (body 1) = .error (.checkMismatch, none) := by decide +kernel

/-- Section 1.4.1: the load that chooses slot 0, skips slot 3 and marks slot 1 STALE. -/
def threeOffers : Loader :=
  { Loader.reset with
    phase := .descriptors, shownSlot := some 2, shownSeq := 40, hasShown := true, framesShown := 1
    descs := #v[some { descriptor 1 with seq := 43 }, some { descriptor 1 with seq := 39 }, none,
                some { descriptor 1 with seq := 43 }] }

theorem test_offers :
    ((offers threeOffers).map fun p => (p.1, offerMark threeOffers p.2)) = [(0, none), (1, some .stale), (3, none)] ∧
      (bestOffer (unmarked threeOffers)).map Prod.fst = some 0 ∧
      skipSet threeOffers (0, { descriptor 1 with seq := 43 }) = [3] := by decide +kernel

/-! ### Every statement's hypotheses are met: the queue and the register window

Each theorem below is named after the statement whose hypotheses it meets, clause by clause. -/

theorem test_hyp_StepRunsTheFrontCommand : (dk.withQueue [.nudge, .latchPoint]).pending = .nudge :: [.latchPoint] :=
  rfl

/-- The last period that moves and the last period of the line. -/
theorem test_hyp_EmptyQueueIsOnePixelPeriod :
    becomes (step (scanAt .running 0 958 false false dk)) (scanAt .running 0 959 false false dk) = true ∧
      becomes (step (scanAt .running 0 959 false false dk)) (scanAt .running 0 959 false false dk) = true ∧
      becomes (step (outputs .off dk)) (outputs .off dk) = true := by decide +kernel

theorem test_hyp_RegisterReads :
    readReg 0x1C dk = 0 ∧ readReg 0x04 { dk with resetHeld := true } = 0 ∧
      readReg 0x18 (scanAt .parking 0 0 false false (engine .halted dk)) = 0x00FF0064 ∧ RegsWf dk := by
  unfold RegsWf
  decide

theorem test_hyp_DirBaseWriteResult :
    becomes (exec (.dirBaseWrite 0xFFFFFFC0) dk) { dk with regs := { dk.regs with dirBase := 0xFFFFFFC0 } } = true ∧
      becomes (exec (.dirBaseWrite 0x20) dk) (refused dk) = true ∧
      becomes (exec (.dirBaseWrite 0x40) (outputs .parked dk)) (refused (outputs .parked dk)) = true ∧
      becomes (exec (.dirBaseWrite 0x40) (engine .halted dk)) (refused (engine .halted dk)) = true := by decide +kernel

theorem test_hyp_RunWriteRefusals :
    (3 : Word).extractLsb' 0 2 = 3 ∧ State.reset.regs.dirBase = 0 ∧ (0x10 : Word).getLsbD 4 = true ∧
      (1 : Word).extractLsb' 0 2 ≠ 0 ∧ becomes (exec (.paintClear 3) dk) (refused dk) = true ∧
      becomes (exec (.outputPark 0) State.reset) (refused State.reset) = true := by decide +kernel

theorem test_hyp_AcceptedRunWriteReplacesAllThreeFields :
    RunAllowed .off false State.reset ∧ RunAllowed .park true dk ∧ RunAllowed .run false dk ∧
      runOutputField 0x112 = some .run :=
  ⟨.inr ⟨rfl, rfl⟩, .inl (by decide), .inl (by decide), by decide⟩

/-- A value of RUN for each of the six commands that write it. -/
theorem test_hyp_AcceptedRunWriteReplacesAllThreeFields_rows :
    runOutputField 0x100 = some .off ∧ runOutputField 0x101 = some .park ∧ (0x112 : Word).getLsbD 4 = true ∧
      (0x101 : Word).getLsbD 4 = false := by decide

/-- A write that names the states the blocks are in: OUTPUT RUN in LOCKING with the engine at work, and OUTPUT OFF with
DIR_BASE 0. -/
theorem test_hyp_FaultModeWriteChangesNoBlock :
    (runOutputField 0x112 = some .run ∧ RunAllowed .run true dk ∧ idleRequest .run (OutputState.locking) = true ∧
        ((0x112 : Word).getLsbD 4 = true ↔ (engine .loading dk).paint.engine ≠ .stopped)) ∧
      runOutputField 0x100 = some .off ∧ RunAllowed .off ((0x100 : Word).getLsbD 4) State.reset ∧
        idleRequest .off State.reset.scan.output = true ∧
        ((0x100 : Word).getLsbD 4 = true ↔ State.reset.paint.engine ≠ .stopped) :=
  ⟨⟨by decide, .inl (by decide), by decide, by decide⟩, by decide, .inr ⟨rfl, by decide⟩, by decide, by decide⟩

/-- For the requests PARK, RUN and OFF: a control block, and every output state. -/
theorem test_hyp_ParkRequestResult :
    dk.resetHeld = false ∧ dk.regs.dirBase ≠ 0 ∧ dk.scan.output = .off ∧
      (locking .off .reading dk).scan.output = .locking ∧ (scanAt .running 0 0 false false dk).scan.output = .running ∧
      (outputs .parked dk).scan.output = .parked ∧ (scanAt .parking 0 0 false false dk).scan.output = .parking := by
  decide

theorem test_hyp_RunRequestResult : dk.resetHeld = false ∧ dk.regs.dirBase ≠ 0 ∧ dk.scan.output = .off := by decide

/-- A RUN request with nothing presented in the loader's place and with a burst presented and one behind it; a PARK request
in LOCKING with the timing read granted. -/
theorem test_hyp_RunRequestResult_place :
    (outputs .parked dk).port.loader = [] ∧
      (queued [descriptor0, askingWrite] (outputs .parked dk)).port.loader = descriptor0 :: [askingWrite] ∧
      (∃ pl ∈ (reads (burstAt .timing 0x80000 24 []) (locking .off .reading dk)).port.reads, pl.burst.kind = .timing) ∧
      BurstKind.requester (.descriptor 0) ≠ .paint :=
  ⟨rfl, rfl, ⟨_, .head _, rfl⟩, by decide⟩

theorem test_hyp_OffRequestResult :
    dk.resetHeld = false ∧ RunAllowed .off true dk ∧ (scanAt .running 0 0 false false dk).scan.output ≠ .off :=
  ⟨rfl, .inl (by decide), by decide⟩

/-- At the entry to OFF: a slot shown and none; a waiting write that asks for the block and one that does not; PAINT 1 in
STOPPED with a chain position; and a granted read of the body. -/
theorem test_hyp_OffRequestResult_clauses :
    (outputs .parked dk).loader.shownSlot = none ∧ (shown (outputs .parked dk)).loader.shownSlot = some 2 ∧
      [unasked askingWrite, askingWrite].head?.any Burst.asks = false ∧ [askingWrite].head?.any Burst.asks = true ∧
      ((0x110 : Word).getLsbD 4 = true ∧ (chained dk).paint.engine = .stopped ∧ (chained dk).paint.chainPos ≠ 0) ∧
      BurstKind.isLoaderRead (.body 0) = true := by
  decide

/-- A PARK or RUN request with PAINT as the engine stands: PAINT 0 in STOPPED, PAINT 1 in HALTED. -/
theorem test_hyp_ParkRequestResult_paint :
    ((0x101 : Word).getLsbD 4 = true ↔ (outputs .parked dk).paint.engine ≠ .stopped) ∧
      ((0x112 : Word).getLsbD 4 = true ↔ (engine .halted (outputs .parked dk)).paint.engine ≠ .stopped) := by decide

/-- A PARK request in PARKED and a RUN request in RUNNING, whose PAINT is no request either: the output state stands, in
either order of the two fields. -/
theorem test_hyp_ParkRequestResult_idle :
    (∀ b, (presentRun b .park false (setRun .park false .stop (outputs .parked dk))).scan.output = .parked) ∧
      ∀ b, (presentRun b .run false (setRun .run false .stop (outputs .running dk))).scan.output = .running := by decide

/-- OFF with the engine AT_TAIL, HALTED and STOPPED; a write of the engine outstanding and none; no final status
presented. -/
theorem test_hyp_OffRequestReleasesThePaintEngine_rest :
    (engine .atTail dk).paint.engine ≠ .waiting ∧ (engine .halted dk).paint.engine ≠ .held ∧
      dk.paint.engine = .stopped ∧ (∀ b ∈ (heldBack (.fill fill) dk).port.paint, b.kind ≠ .final) ∧
      EngineWriteOut (writes (burstAt .pixel 0 2 [0, 0]) (heldBack (.fill fill) dk)) ∧
      ¬EngineWriteOut (waits (fence 0) dk) :=
  ⟨by decide, by decide, rfl, by decide, ⟨_, rfl, rfl, rfl⟩, nofun⟩

/-- A waiting fence with its ACTIVE write outstanding and without, a held FILL, and a FILL being executed; PAINT 1 and
PAINT 0. -/
theorem test_hyp_OffRequestReleasesThePaintEngine :
    (RunAllowed .off true dk ∧ (0x10 : Word).getLsbD 4 = true ∧ (outputs .parked dk).scan.output ≠ .off) ∧
      (RunAllowed .off false (waits (fence 0) dk) ∧ (0x100 : Word).getLsbD 4 = false) ∧
      (holds (held (fence 0)) (engine .waiting dk)).paint.held = some (held (fence 0)) ∧
      (held (fence 0)).phase = .running ∧ (engine .waiting dk).paint.engine ≠ .stopped ∧
      WriteWaits (writes (burstAt .active 0x4004 4 [2, 0, 0, 0]) (engine .waiting dk)) ∧
      ¬WriteWaits (engine .waiting dk) ∧ (held (.fill fill)).phase = .running ∧
      (heldBack (.copy copy) dk).paint.engine = .held ∧
      (heldBack (.copy copy) dk).paint.held = some (held (.copy copy)) :=
  ⟨⟨.inl (by decide), by decide, by decide⟩, ⟨.inl (by decide), by decide⟩, rfl, rfl, by decide,
    (writeWaits_iff _).mpr (by decide), (not_writeWaits_iff _).mpr (by decide), rfl, rfl, rfl⟩

theorem test_hyp_PaintSetResult :
    runOutputField 0 = some .off ∧ dk.regs.dirBase ≠ 0 ∧ dk.paint.engine = .stopped ∧ dk.paint.held = none ∧
      (holds { held (fence 0) with oldWalk := true, phase := .closing } dk).paint.held ≠ none ∧
      ({ dk with paint := { dk.paint with chainPos := 0x4000 } } : State).paint.chainPos ≠ 0 := by decide

/-- PAINT 1 with an OFF that is no request, at chain position 0 and behind an order. -/
theorem test_hyp_PaintSetResult_idle :
    runOutputField 0x10 = some .off ∧ idleRequest .off dk.scan.output = true ∧ dk.paint.chainPos = 0 ∧
      ({ dk with paint := { dk.paint with chainPos := 0x4000 } } : State).scan.output = .off := by decide

/-- The engine at work with nothing held, and with an order in each phase. -/
theorem test_hyp_PaintClearResult :
    (RunAllowed .off false State.reset ∧ idleRequest .off State.reset.scan.output = true ∧
        (engine .atTail State.reset).paint.engine ≠ .stopped ∧ (engine .atTail State.reset).paint.held = none) ∧
      ({ held (.fill fill) with phase := .seen } : Held).phase = .seen ∧
      ({ held (.fill fill) with phase := .faulted } : Held).phase = .faulted ∧
      ({ held (.fill fill) with phase := .closing } : Held).phase = .closing ∧
      (∀ b ∈ dk.port.paint, b.kind ≠ .final) ∧ dk.port.write = none ∧
      ∃ pl, (writes (burstAt .pixel 0 2 [0, 0]) dk).port.write = some pl ∧ pl.abandoned = false ∧
        pl.burst.kind.requester = .paint :=
  ⟨⟨.inr ⟨rfl, rfl⟩, by decide, by decide, by decide⟩, rfl, rfl, rfl, by decide, rfl, _, rfl, rfl, rfl⟩

/-- PAINT 0 with a PARK request that is taken, with an OFF that is taken AT_TAIL, and with an OFF that is no request in
WAITING. -/
theorem test_hyp_PaintClearResult_output :
    (runOutputField 1 = some .park ∧ RunAllowed .park false dk ∧ (engine .atTail dk).paint.engine ≠ .stopped ∧
        OutputTarget.park ≠ .off) ∧
      ((engine .atTail dk).paint.engine ≠ .waiting ∧ (engine .atTail dk).paint.engine ≠ .held) ∧
      ¬(waits (fence 0) dk).scan.output ≠ .off :=
  ⟨⟨by decide, .inl (by decide), by decide, by decide⟩, by decide, by decide⟩

/-- A write of the engine outstanding; none, and one of the status writer. -/
theorem test_hyp_EngineWriteOut :
    EngineWriteOut (writes (burstAt .pixel 0 2 [0, 0]) dk) ∧ ¬EngineWriteOut dk ∧
      ¬EngineWriteOut (writes (burstAt .status 0x800A0 4 (zeros 4)) dk) ∧
      ¬EngineWriteOut (freed 0 (writes (burstAt .status 0x800A0 4 (zeros 4)) dk)) := by
  refine ⟨⟨_, rfl, rfl, rfl⟩, fun ⟨_, h, _⟩ => (by cases h), fun ⟨_, h, _, k⟩ => ?_, fun ⟨_, h, _, k⟩ => ?_⟩ <;>
    cases h <;> cases k

/-- A walk that PAINT 0 ends in LOADING with a read that waits, and in CLOSING with a final status write that stays. -/
def clearing (b : Burst) (s : State) : State :=
  { s with port := { s.port with paint := [b] } }

theorem test_hyp_PaintClearResult_bursts :
    (clearing (burstAt .link 0x4000 4 []) (engine .loading dk)).paint.held = none ∧
      (clearing (burstAt .link 0x4000 4 []) dk).port.paint.filter (fun b => b.kind == .final) = [] ∧
      (clearing (burstAt .final 0x4004 4 [3, 0, 0, 0]) dk).port.paint.filter (fun b => b.kind == .final) =
        [burstAt .final 0x4004 4 [3, 0, 0, 0]] := by decide

/-- NUDGE re-reads the head pointer at chain position 0, and the link of the last order at any other. -/
theorem test_hyp_NudgeAndClearFaultResult :
    (engine .atTail dk).paint.engine = .atTail ∧ (engine .atTail dk).paint.chainPos = 0 ∧ dk.paint.engine ≠ .atTail ∧
      ({ dk with fault := { dk.fault with latch := true } } : State).fault.latch = true ∧ dk.fault.latch = false ∧
      becomes (exec .nudge dk) dk = true ∧ becomes (exec .clearFault dk) dk = true := by decide +kernel

theorem test_hyp_ResumeResult :
    (engine .halted dk).paint.engine = .halted ∧
      becomes (exec .resume (engine .atTail dk)) (refused (engine .atTail dk)) = true := by decide +kernel

theorem test_hyp_SoftResetResult : dk.resetHeld = false := rfl

theorem test_hyp_PowerOnResetAndRelease :
    Instr.nudge ≠ .powerOnReset ∧ Instr.nudge ≠ .resetNRelease ∧
      becomes (exec .nudge { engine .atTail dk with resetHeld := true })
        { engine .atTail dk with resetHeld := true } = true := by decide +kernel

/-- A flag that is set, a command that neither clears nor resets, and its outcome. -/
theorem test_hyp_EventFlagsStayUntilCleared :
    Instr.nudge.wellFormed = true ∧ (∀ v, Instr.nudge ≠ .eventsWrite v) ∧ Instr.nudge.isReset = false ∧
      (refused dk).regs.isPending .configRefused = true ∧ becomes (exec .nudge (refused dk)) (refused dk) = true :=
  ⟨rfl, nofun, by decide, by decide, by decide +kernel⟩

theorem test_hyp_IrqFollowsPendingAndEnabled :
    irqN { refused dk with regs := { (refused dk).regs with enable := 0x800 } } = false ∧ irqN (refused dk) = true := by
  decide

theorem test_hyp_OtherRegisterWrites :
    becomes (exec (.registerWriteOther 0x1C 1) dk) dk = true ∧
      becomes (exec (.registerWriteOther 0xFFFFFFFC 1) dk) dk = true ∧
      becomes (exec (.registerWriteOther 0x0C 0) dk) (refused dk) = true ∧
      becomes (exec (.registerWriteOther 0x0C 5) dk) (refused dk) = true := by decide +kernel

/-! ### Hypotheses: frames and output states -/

/-- A timing record whose fields are at their bounds, 24 bytes at DIR_BASE. -/
def timingBytes (width : Nat) : List Byte :=
  le16 width ++ le16 2048 ++ le16 8 ++ [255, 64, 16, 0, 16, 0] ++ le16 1023 ++ zeros 10

theorem test_hyp_TimingRecordResult :
    Awaits BurstKind.isTiming 0 (burstAt .timing 0x80000 24 [])
        (reads (burstAt .timing 0x80000 24 []) (locking .parked .reading dk)) ∧
      (timingBytes 16).length = beatBytes (burstAt .timing 0x80000 24 []) ∧
      (parseTiming (named (burstAt .timing 0x80000 24 []) (timingBytes 16))).legal = true ∧
      (parseTiming (named (burstAt .timing 0x80000 24 []) (timingBytes 15))).legal = false ∧
      (locking .parked .reading dk).scan.origin = some .parked :=
  ⟨⟨rfl, by decide, rfl⟩, by decide, by decide, by decide, rfl⟩

theorem test_hyp_TimingReadErrorReturnsToOrigin :
    (locking .off .reading dk).scan.output = .locking ∧ (locking .off .reading dk).scan.lockPhase = some .reading ∧
      (locking .off .reading dk).scan.origin = some .off := by decide

theorem test_hyp_LockTimeoutResult :
    (locking .parked .clock dk).scan.output = .locking ∧ (outputs .off dk).scan.output ≠ .locking ∧
      (locking .off .clock dk).scan.origin = some .off ∧ (locking .off .clock dk).scan.lockPhase = some .clock ∧
      (locking .off .reading dk).scan.lockPhase ≠ some .clock := by decide

/-- AT_TAIL at chain position 0 and behind an order, with each word that the tail's reading begins with. -/
theorem test_hyp_TailReread :
    (engine .atTail (locking .off .clock dk)).paint.engine = .atTail ∧ (engine .atTail dk).paint.chainPos = 0 ∧
      ({ (engine .atTail dk).paint with chainPos := 0x4000 } : Paint).chainPos ≠ 0 ∧
      (rereadTail (engine .atTail dk)).port.paint = [burstAt .tail 0x80018 4 []] := by decide

theorem test_hyp_LockEventResult :
    (locking .off .clock dk).scan.timing = some tm ∧ (locking .off .clock dk).scan.output = .locking ∧
      becomes (exec (.lockEvent false) (locking .off .clock dk)) (locking .off .clock dk) = true := by decide +kernel

/-- The fences that an event which is no latch point of RUNNING tests: one that is true, and one that is not, each with its
ACTIVE write outstanding and without. -/
theorem test_hyp_FenceTested :
    (waits (fence 0) dk).paint.engine = .waiting ∧ (held (fence 0)).phase = .running ∧ (held (fence 0)).decided = none ∧
      (fence 0 = .fence 1 7 0) ∧ FenceHolds 2 0 (waits (.fence 2 0 0) dk) ∧ ¬FenceHolds 1 7 (waits (fence 0) dk) ∧
      ¬WriteWaits (waits (fence 0) dk) ∧
      WriteWaits (writes (burstAt .active 0x4004 4 [2, 0, 0, 0]) (waits (.fence 2 0 0) dk)) :=
  ⟨rfl, rfl, rfl, rfl, (fenceTrue_iff 2 0 _).mp (by decide), fun h => absurd ((fenceTrue_iff 1 7 _).mpr h) (by decide),
    (not_writeWaits_iff _).mpr (by decide), (writeWaits_iff _).mpr (by decide)⟩

/-- The first row of a released COPY and of a released FILL, and a FILL that stays HELD. -/
theorem test_hyp_HoldTested :
    (Order.fill fill).inView (heldBack (.fill fill) dk).loader.inView = false ∧
      (Order.copy copy).inView (heldBack (.copy copy) dk).loader.inView = false ∧
      (Order.fill fill).inView [⟨0x100000, 8, ⟨0, 0, 1, 1⟩⟩] = true := by decide

/-- R139: the FILL shares its pixel with an entry of its surface, and the turned COPY one with the entry's last pixel;
neither overlaps an entry beside its rectangle, an empty one, or one of another pitch. -/
theorem test_overlaps :
    Overlaps (.fill fill) [⟨0x200000, 16, ⟨0, 0, 4, 4⟩⟩, ⟨0x100000, 8, ⟨0, 1, 4, 4⟩⟩] ∧
      Overlaps (.copy copy) [⟨0x200000, 16, ⟨0, 0, 1, 1⟩⟩] ∧
      (Order.copy copy).inView [⟨0x200000, 16, ⟨2, 0, 2, 4⟩⟩, ⟨0x200000, 16, ⟨0, 3, 4, 1⟩⟩] = false ∧
      (Order.fill fill).inView [⟨0x100000, 8, ⟨0, 0, 0, 1⟩⟩, ⟨0x100000, 16, ⟨0, 0, 4, 4⟩⟩] = false :=
  ⟨⟨fill.dst, fill.rect, .inr ⟨_, rfl, rfl, rfl⟩, _, .tail _ (.head _), rfl, rfl, 0, 1, by simp [InRect, fill]⟩,
    ⟨copy.dst, copyTarget copy, .inl ⟨_, rfl, rfl, rfl⟩, _, .head _, rfl, rfl, 0, 0, by simp [InRect, copyTarget, copy]⟩,
    by decide, by decide⟩

/-- Line starts: the line before each of line 0, the last active line and the first blank line. -/
theorem test_hyp_StartOfLineResult :
    (scanAt .parking 524 959 false false dk).scan.output.sends = true ∧
      (scanAt .parking 524 959 false false dk).scan.mark ≠ some 0 ∧
      0 = (if 524 + 1 < tm.h + tm.v then 524 + 1 else 0) ∧ 480 = (if 479 + 1 < tm.h + tm.v then 479 + 1 else 0) ∧
      tm.h ≤ 480 := by decide

/-- A line that is late, with its span WAITING. -/
def lateFetch (s : State) : State :=
  { s with fetch := { s.fetch with active := some 0, filling := [⟨0, .waiting, [], [], 1⟩] } }

theorem test_hyp_ActiveLineStartResult :
    (scanAt .running 524 0 false false (lateFetch dk)).scan.output.sends = true ∧
      0 = (if 524 + 1 < tm.h + tm.v then 524 + 1 else 0) ∧ 0 < tm.h ∧ 479 < tm.h ∧ 479 + 1 = tm.h ∧
      true = ((lateFetch dk).fetch.active.isSome && (lateFetch dk).fetch.filling.any fun sp => sp.status == .waiting) ∧
      ({ dk with loader := { dk.loader with shownSlot := some 2 } } : State).loader.shownSlot ≠ none := by decide

/-- A SURFACE window that is listed for line 0, shown by `dk`. -/
def tickerShown (s : State) : State :=
  { s with
    loader := { s.loader with shownSlot := some 2, shownTable := [⟨16, ⟨0, 0, 800, 48⟩, .surface (ticker 0)⟩] }
    comp := { s.comp with coming := [⟨0, 0, 800, 0, false⟩] } }

theorem test_hyp_WindowsSkippedOnALine :
    (524 + 1 < tm.h ∨ tm.h + tm.v ≤ 524 + 1) ∧ (478 + 1 < tm.h ∨ tm.h + tm.v ≤ 478 + 1) ∧ 0 < tm.h ∧
      (tickerShown dk).comp.coming[0]? = some ⟨0, 0, 800, 0, false⟩ ∧
      (tickerShown dk).loader.shownTable[0]? = some ⟨16, ⟨0, 0, 800, 48⟩, .surface (ticker 0)⟩ := by decide

theorem test_hyp_LatchPointResult :
    (scanAt .running 480 0 true false dk).scan.line = some ⟨480, 0, true, false⟩ ∧
      (scanAt .parking 480 0 true false dk).scan.output = .parking ∧
      (engine .atTail (scanAt .running 480 0 true false dk)).paint.engine = .atTail := by decide

/-- A staged scene, and the frame open due with it. -/
def staged (s : State) : State :=
  { s with loader := { s.loader with staged := some ⟨0, 43, 1, ⟨0, 0, 0⟩, [3]⟩ } }

theorem test_hyp_FrameOpenTakesOver :
    (staged (scanAt .running 524 0 false true dk)).loader.staged = some ⟨0, 43, 1, ⟨0, 0, 0⟩, [3]⟩ ∧
      (staged (scanAt .running 524 0 false true dk)).scan.output.sends = true ∧
      (staged (scanAt .running 524 0 false true dk)).scan.line = some ⟨524, 0, false, true⟩ ∧
      (staged dk).port.loader = [] ∧ (staged dk).loader.shownSlot = none ∧ (staged (shown dk)).loader.shownSlot ≠ none ∧
      (queued [descriptor0] (staged dk)).port.loader ≠ [] ∧
      (heldBack (.fill fill) (staged dk)).paint.held = some (held (.fill fill)) ∧
      (staged dk).paint.engine ≠ .waiting ∧ (staged dk).paint.engine ≠ .held := by decide

/-- A take-over with nothing waiting, no slot shown and none to skip presents the SHOWN write, which asks for the block;
with a slot skipped, that write waits and keeps its mark. -/
theorem test_takeOver_asks :
    [askingWrite].head?.any Burst.asks = true ∧ firstIssued [askingWrite] = [unasked askingWrite] ∧
      [unasked askingWrite, askingWrite].head?.any Burst.asks = false ∧
      firstIssued [unasked askingWrite, askingWrite] = [unasked askingWrite, askingWrite] := by decide

theorem test_hyp_FrameOpenRunsOn :
    (scanAt .parking 524 0 false true dk).loader.staged = none ∧
      (scanAt .parking 524 0 false true dk).scan.output.sends = true ∧
      (tickerShown (scanAt .parking 524 0 false true dk)).loader.shownSlot ≠ none ∧
      (tickerShown dk).loader.shownTable[0]? = some ⟨16, ⟨0, 0, 800, 48⟩, .surface (ticker 0)⟩ ∧
      ({ dk.comp with offsets := [some ⟨2000, 0⟩] } : Comp).offsets[0]? = some (some ⟨2000, 0⟩) := by decide

theorem test_hyp_FrameMarkResult :
    ({ scanAt .running 485 0 false false dk with
        scan := { (scanAt .running 485 0 false false dk).scan with mark := some 0 } } : State).scan.output.sends = true ∧
      becomes (exec .frameMark dk) dk = true := by decide +kernel

/-! ### Hypotheses: scenes -/

def descriptorAt (n : Slot) : Burst :=
  burstAt (.descriptor n) (0x80020 + 32 * n.val) 20 []

/-- In phase DESCRIPTORS, with the read of slot 3 outstanding. -/
def loading (left : Nat) (s : State) : State :=
  reads (descriptorAt 3) { s with loader := { s.loader with phase := .descriptors, descLeft := left } }

theorem test_hyp_DescriptorReadResult :
    Awaits BurstKind.isDescriptor 0 (descriptorAt 3) (loading 2 dk) ∧ (descriptorAt 3).kind = .descriptor 3 ∧
      (zeros 24).length = beatBytes (descriptorAt 3) ∧ 2 ≤ (loading 2 dk).loader.descLeft :=
  ⟨⟨rfl, by decide, rfl⟩, rfl, by decide, by decide⟩

/-- An ERROR with nothing queued behind the granted reads, and with a descriptor read presented and one behind it. -/
theorem test_hyp_DescriptorReadResult_queue :
    (loading 2 dk).port.loader = [] ∧
      (queued [descriptor0, descriptorAt 1] (loading 2 dk)).port.loader = descriptor0 :: [descriptorAt 1] ∧
      Awaits BurstKind.isDescriptor 0 (descriptorAt 3) (queued [descriptor0, descriptorAt 1] (loading 2 dk)) :=
  ⟨rfl, rfl, rfl, by decide, rfl⟩

/-- The last descriptor of a load, with an offer that has a body, one whose body length is refused, and none. -/
def offerBytes (seq : Word) (len : Word) : List Byte :=
  [1, 0, 0, 0] ++ le32 seq ++ le32 0x90000 ++ le32 len ++ zeros 8

theorem test_hyp_DescriptorPhaseEnd :
    Awaits BurstKind.isDescriptor 0 (descriptorAt 3) (loading 1 dk) ∧ (loading 1 dk).loader.descLeft = 1 ∧
      (offerBytes 43 24).length = beatBytes (descriptorAt 3) ∧
      offerMark dk.loader (parseDescriptor (offerBytes 0 24)) = some .sequenceBad ∧
      bodyRefused (parseDescriptor (offerBytes 43 1024)) = none ∧
      bodyRefused (parseDescriptor (offerBytes 43 1028)) = some .lengthBad ∧
      bodyRefused (parseDescriptor (offerBytes 43 4)) = some .lengthBad ∧ unmarked dk.loader = [] :=
  ⟨⟨rfl, by decide, rfl⟩, rfl, by decide, by decide, by decide, by decide, by decide, by decide⟩

/-- R13 on either side of each bound; and a load with one mark, and with none. -/
theorem test_hyp_DescriptorPhaseEnd_clauses :
    BodyRefused { descriptor 1 with bodyLen := 7 } .lengthBad ∧ BodyRefused { descriptor 1 with bodyLen := 1028 } .lengthBad ∧
      BodyRefused { descriptor 1 with bodyAddr := 0x90004 } .alignBad ∧ (∀ code, ¬BodyRefused (descriptor 1) code) ∧
      markWrites 0x80000 threeOffers = [burstAt (.slotWrite 1 39 false) 0x80040 4 [4, 1, 0, 0]] ∧
      markWrites 0x80000 dk.loader = [] := by
  refine ⟨.inl ⟨rfl, .inl (by decide)⟩, .inl ⟨rfl, .inr (.inl (by decide))⟩, .inr ⟨rfl, ?_, by decide⟩, fun code h => ?_, ?_,
    by decide⟩
  · rintro (h | h | h) <;> revert h <;> decide
  · rcases h with ⟨_, h | h | h⟩ | ⟨_, _, h⟩ <;> revert h <;> decide
  · decide +kernel

theorem test_hyp_CandidateIsTheNewestOffer :
    bestOffer (unmarked threeOffers) = some (0, { descriptor 1 with seq := 43 }) ∧ threeOffers.hasShown = true ∧
      (∀ p ∈ unmarked threeOffers, (p.2.seq - 40).toNat < 2 ^ 31) := by decide +kernel

/-- No unmarked offer; and two whose sequences lie exactly 2^31 apart, of which the earlier stands, with the skip set of
a load of four offers. -/
theorem test_hyp_CandidateIsTheNewestOffer_apart :
    unmarked dk.loader = [] ∧ unmarked threeOffers ≠ [] ∧
      bestOffer [(0, { descriptor 1 with seq := 1 })] = some (0, { descriptor 1 with seq := 1 }) ∧
      ((0x80000001 : Word) - 1).toNat = 2 ^ 31 ∧
      (let l : Loader :=
        { Loader.reset with
          descs := #v[some { descriptor 1 with seq := 1 }, some { descriptor 1 with seq := 1 },
            some { descriptor 1 with seq := 0x70000000 }, some { descriptor 1 with seq := 0xF0000000 }] }
       bestOffer (unmarked l) = some (2, { descriptor 1 with seq := 0x70000000 }) ∧
        skipSet l (2, { descriptor 1 with seq := 0x70000000 }) = [0, 1, 3]) := by decide +kernel

theorem test_hyp_BodyBurstResult :
    Awaits BurstKind.isBody 0 (burstAt (.body 0) 0x90000 24 []) (reads (burstAt (.body 0) 0x90000 24 []) dk) ∧
      (burstAt (.body 0) 0x90000 24 []).kind = .body 0 ∧
      (body 1).length = beatBytes (burstAt (.body 0) 0x90000 24 []) :=
  ⟨⟨rfl, by decide, rfl⟩, rfl, by decide⟩

/-- A body read presented with another behind it, and nothing queued. -/
theorem test_hyp_BodyBurstResult_queue :
    (queued [burstAt (.body 24) 0x90040 64 [], burstAt (.body 88) 0x90080 64 []] dk).port.loader =
        burstAt (.body 24) 0x90040 64 [] :: [burstAt (.body 88) 0x90080 64 []] ∧ dk.port.loader = [] := by decide

/-- In phase CHECKING with the candidate of slot 0. -/
def checking (kind : Byte) (s : State) : State :=
  { s with
    loader :=
      { s.loader with
        phase := .checking, candidate := some 0, image := body kind,
        descs := #v[some (descriptor kind), none, none, none] } }

/-- An ERROR on a body read, with its candidate. -/
theorem test_hyp_BodyBurstResult_error :
    Awaits BurstKind.isBody 0 (burstAt (.body 0) 0x90000 24 []) (reads (burstAt (.body 0) 0x90000 24 []) (checking 1 dk)) ∧
      (checking 1 dk).loader.candidate = some 0 ∧ (checking 1 dk).loader.descs[0] = some (descriptor 1) :=
  ⟨⟨rfl, by decide, rfl⟩, rfl, rfl⟩

theorem test_hyp_SceneChecksResult :
    (checking 1 dk).loader.phase = .checking ∧ (checking 1 dk).loader.candidate = some 0 ∧
      (checking 1 dk).loader.descs[0] = some (descriptor 1) ∧
      checkScene (descriptor 3) (checking 3 dk).loader.image = .error (.kindBad, some 0) ∧
      (checkScene (descriptor 1) (checking 1 dk).loader.image).toBool = true := by decide +kernel

/-- The record of a ring, the same record without its optional fields, and the record of a FILL; and the in-view entries
of a FILL window, a ring window and a plain one. -/
theorem test_hyp_SceneChecksResult_records :
    u8 tickerRecord 1 = 2 ∧ (u8 tickerRecord 3).getLsbD 1 = true ∧ u8 (body 1) 9 = 0 ∧
      windowOf (parseRecord (tickerRecord.set 3 0) 0) =
        ⟨16, ⟨0, 400, 800, 48⟩,
          .surface { ticker 0 with ring := none, motion := none, view := ⟨0, 0, 800, 48⟩ }⟩ ∧
      viewEntries
          [⟨16, ⟨0, 0, 800, 480⟩, .fill ⟨0, 0, 0⟩⟩, windowOf (parseRecord tickerRecord 0),
            windowOf (parseRecord (tickerRecord.set 3 0) 0)] =
        [⟨0x200000, 9600, ⟨0, 0, 2400, 48⟩⟩, ⟨0x200000, 9600, ⟨0, 0, 800, 48⟩⟩] := by decide +kernel

/-- With one blank line, between its latch point and its frame open; and a part that sends no frame. -/
def oneBlank (s : State) : State :=
  { s with
    scan := { s.scan with output := .running, timing := some { tm with v := 1 }, line := some ⟨480, 0, false, true⟩ } }

theorem test_hyp_BetweenPhases : BetweenPhases (oneBlank (checking 1 dk)) ∧ ¬BetweenPhases (checking 1 dk) :=
  ⟨⟨_, _, rfl, rfl, rfl, rfl, rfl⟩, fun ⟨_, _, h, _⟩ => by cases h⟩

/-- R68: a load begun at the latch point of one blank line is not staged for that line's take-over. -/
theorem test_betweenPhases :
    becomes (exec .sceneChecksComplete (oneBlank (checking 1 dk))) (oneBlank (checking 1 dk)) = true := by
  decide +kernel

theorem test_hyp_SlotWriteResult :
    Awaits BurstKind.isSlotWrite (writeTag 0) (burstAt (.slotWrite 3 43 false) 0x80080 4 [2, 0, 0, 0])
        (writes (burstAt (.slotWrite 3 43 false) 0x80080 4 [2, 0, 0, 0]) dk) ∧
      (burstAt (.slotWrite 3 43 false) 0x80080 4 [2, 0, 0, 0]).kind = .slotWrite 3 43 false :=
  ⟨⟨rfl, by decide, rfl⟩, rfl⟩

/-- One span being filled, with its last burst outstanding. -/
def spanRead (s : State) : State :=
  reads (burstAt (.span 0 0 0) 0x200000 8 [])
    { s with fetch := { s.fetch with active := some 0, filling := [⟨15, .waiting, [(0x200000, 8)], zeros 8, 1⟩] } }

theorem test_hyp_SpanBurstResult :
    Awaits BurstKind.isSpan 0 (burstAt (.span 0 0 0) 0x200000 8 []) (spanRead dk) ∧
      (zeros 8).length = beatBytes (burstAt (.span 0 0 0) 0x200000 8 []) ∧
      (spanRead dk).fetch.filling[0]? = some ⟨15, .waiting, [(0x200000, 8)], zeros 8, 1⟩ :=
  ⟨⟨rfl, by decide, rfl⟩, by decide, rfl⟩

/-! ### Hypotheses: the paint engine -/

/-- The engine in LOADING with one read of the chain outstanding. -/
def walking (b : Burst) (left : Nat) (s : State) : State :=
  reads b { s with paint := { s.paint with engine := .loading, buf := zeros 12, bufLeft := left } }

/-- The head pointer's read, and the values 7 and 8 on either side of the tail's limit. -/
theorem test_hyp_ChainWordResult :
    ((Instr.headPointerReadResponse, BurstKind.headPointer) : (Nat → Response → Instr) × BurstKind) ∈ wordResponses ∧
      Awaits (fun j => j == .headPointer) 0 (burstAt .headPointer 0x80018 4 [])
        (walking (burstAt .headPointer 0x80018 4 []) 1 dk) ∧
      ([7, 0, 0, 0, 0, 0, 0, 0] : List Byte).length = beatBytes (burstAt .headPointer 0x80018 4 []) ∧
      (u32 (named (burstAt .headPointer 0x80018 4 []) [7, 0, 0, 0, 0, 0, 0, 0]) 0).toNat < 8 ∧
      8 ≤ (u32 (named (burstAt .headPointer 0x80018 4 []) [8, 0, 0, 0, 0, 0, 0, 0]) 0).toNat :=
  ⟨List.mem_cons_self, ⟨rfl, by decide, rfl⟩, by decide, by decide, by decide⟩

/-- The beats of an order's head: link, state and kind. -/
def headBeats (link : Byte) (state kind : Byte) : List Byte :=
  [link, 0, 0, 0, state, 0, 0, 0, kind, 0, 0, 0, 0, 0, 0, 0]

def headBurst : Burst :=
  burstAt (.orderHead 0x4000 0) 0x4000 12 []

/-- The head as gathered from its one burst. -/
def head (link state kind : Byte) : List Byte :=
  putBytes (zeros 12) 0 (named headBurst (headBeats link state kind))

theorem test_hyp_OrderHeadReadResult :
    (Awaits BurstKind.isOrderHead 0 headBurst (walking headBurst 1 dk) ∧ headBurst.kind = .orderHead 0x4000 0 ∧
        (headBeats 0 1 4).length = beatBytes headBurst) ∧
      u8 (head 0 1 4) 4 = 1 ∧ 1 ≤ (u8 (head 0 1 4) 8).toNat ∧ (u8 (head 0 1 4) 8).toNat ≤ 4 ∧
      5 ≤ (u8 (head 0 1 5) 8).toNat ∧ ¬WriteWaits (walking headBurst 1 dk) ∧ u8 (head 7 3 1) 4 ≠ 1 ∧
      (u32 (head 7 3 1) 0).toNat < 8 ∧ 8 ≤ (u32 (head 8 3 1) 0).toNat ∧ dk.paint.passedOver + 1 < 256 ∧
      2 ≤ (walking headBurst 2 dk).paint.bufLeft ∧ (walking headBurst 1 dk).paint.bufErr = none ∧
      ({ (walking headBurst 1 dk).paint with bufErr := some 0x4000 } : Paint).bufErr = some 0x4000 :=
  ⟨⟨⟨rfl, by decide, rfl⟩, rfl, by decide⟩, by decide, by decide, by decide, by decide,
    (not_writeWaits_iff _).mpr (by decide), by decide, by decide, by decide, by decide, by decide, rfl, rfl⟩

/-- The 256th order passed over in a row. -/
theorem test_hyp_OrderHeadReadResult_loop :
    ({ (walking headBurst 1 dk).paint with passedOver := 255 } : Paint).passedOver = 255 ∧ u8 (head 8 3 1) 4 ≠ 1 ∧
      chainLoopDue { walking headBurst 1 dk with paint := { (walking headBurst 1 dk).paint with passedOver := 256 } } = true := by
  decide

/-- A head, a remainder and a STAMP answered while a write of the engine waits. -/
theorem test_hyp_writesWait :
    WriteWaits (freed 0 (writes (burstAt .pixel 0 2 [0, 0]) (walking headBurst 1 dk))) ∧
      (freed 0 (writes (burstAt .pixel 0 2 [0, 0]) (walking headBurst 1 dk))).port.reads = [] ∧
      WriteWaits (writes (burstAt .pixel 0 2 [0, 0]) dk) ∧
      WriteWaits (freed (writeTag 0)
        { writes (burstAt .stamp 0x5000 8 (zeros 8)) dk with
          port := { dk.port with paint := [burstAt .active 0x4004 4 [2, 0, 0, 0]] } }) :=
  ⟨(writeWaits_iff _).mpr (by decide), by decide, (writeWaits_iff _).mpr (by decide), (writeWaits_iff _).mpr (by decide)⟩

/-- CHAIN_LOOP where it is due, and on either side of the count. -/
theorem test_hyp_OrderHeadReadResult_due :
    let at_ (n : Nat) : State := { dk with paint := { dk.paint with engine := .loading, passedOver := n } }
    ((at_ 256).resetHeld = false ∧ (at_ 256).paint.engine = .loading ∧ (at_ 256).paint.passedOver = 256) ∧
      ¬((at_ 255).paint.engine = .loading ∧ (at_ 255).paint.passedOver = 256) ∧
      ¬(dk.paint.engine = .loading ∧ dk.paint.passedOver = 256) := by decide

/-- A held order whose remainder of `n` bytes is read in one burst. -/
def remainderRead (kind : Byte) (n left : Nat) (s : State) : State :=
  reads (burstAt (.remainder 0) 0x400C n [])
    (holds { held .unknown with kind := kind, phase := .seen }
      { s with paint := { s.paint with engine := .loading, buf := zeros n, bufLeft := left } })

/-- The remainder of a FILL of one pixel, of a FENCE and of a STAMP. -/
def fillRemainder : List Byte :=
  le32 0x100000 ++ le16 8 ++ [1, 0] ++ le16 4 ++ le16 4 ++ le16 0 ++ le16 0 ++ le16 1 ++ le16 1 ++ [0, 0, 255, 0]

theorem test_hyp_RemainderReadResult :
    (Awaits BurstKind.isRemainder 0 (burstAt (.remainder 0) 0x400C 24 []) (remainderRead 2 24 1 dk) ∧
        (zeros 4 ++ fillRemainder ++ zeros 4).length = beatBytes (burstAt (.remainder 0) 0x400C 24 []) ∧
        named (burstAt (.remainder 0) 0x400C 24 []) (zeros 4 ++ fillRemainder ++ zeros 4) = fillRemainder) ∧
      (parseOrder 2 fillRemainder).firstFailing = none ∧ (parseOrder 2 fillRemainder).inView dk.loader.inView = false ∧
      (parseOrder 2 fillRemainder).inView [⟨0x100000, 8, ⟨0, 0, 1, 1⟩⟩] = true ∧
      (parseOrder 2 (zeros 24)).firstFailing = some .alignBad ∧ (Order.copy copy).firstFailing = none ∧
      (fence 0).firstFailing = none ∧ FenceHolds 2 0 dk ∧ ¬FenceHolds 1 7 dk ∧
      (Order.stamp 0x5000 9).firstFailing = none ∧ 2 ≤ (remainderRead 2 24 2 dk).paint.bufLeft :=
  ⟨⟨⟨rfl, by decide, rfl⟩, by decide, by decide⟩, by decide, by decide, by decide, by decide, by decide, by decide,
    (fenceTrue_iff 2 0 dk).mp (by decide), fun h => absurd ((fenceTrue_iff 1 7 dk).mpr h) (by decide), by decide, by decide⟩

/-- The last source read of a COPY row, and the last write of a row of a FILL of two rows. -/
theorem test_hyp_CopyAndFillRowsResult :
    (held (.copy copy)).phase = .running ∧ (held (.copy copy)).decided = none ∧
      Awaits BurstKind.isCopySrc 0 (burstAt (.copySrc 0) 0x100004 2 []) (reads (burstAt (.copySrc 0) 0x100004 2 []) dk) ∧
      (zeros 8).length = beatBytes (burstAt (.copySrc 0) 0x100004 2 []) ∧ (held (.copy copy)).srcLeft ≤ 1 ∧
      2 ≤ ({ held (.copy copy) with srcLeft := 2 } : Held).srcLeft ∧
      Awaits (fun k => k == .pixel) (writeTag 0) (burstAt .pixel 0x100000 2 [0, 0])
        (writes (burstAt .pixel 0x100000 2 [0, 0]) dk) ∧
      ¬WriteWaits (freed (writeTag 0) (writes (burstAt .pixel 0x100000 2 [0, 0]) dk)) ∧
      (held (.fill fill)).row + 1 < fill.rect.h ∧ (held (.copy copy)).row + 1 < copy.dstH ∧
      (Order.fill fill).rows ≤ ({ held (.fill fill) with row := 1 } : Held).row + 1 :=
  ⟨rfl, rfl, ⟨rfl, by decide, rfl⟩, by decide, by decide, by decide, ⟨rfl, by decide, rfl⟩,
    (not_writeWaits_iff _).mpr (by decide), by decide, by decide, by decide⟩

theorem test_hyp_ActiveAndStampResult :
    Awaits (fun k => k == .active) (writeTag 0) (burstAt .active 0x4004 4 [2, 0, 0, 0])
        (writes (burstAt .active 0x4004 4 [2, 0, 0, 0]) (engine .executing dk)) ∧
      ¬WriteWaits (freed (writeTag 0) (writes (burstAt .active 0x4004 4 [2, 0, 0, 0]) (engine .executing dk))) ∧
      Awaits (fun k => k == .stamp) (writeTag 0) (burstAt .stamp 0x5000 8 (zeros 8))
        (writes (burstAt .stamp 0x5000 8 (zeros 8)) dk) ∧
      ¬WriteWaits (freed (writeTag 0) (writes (burstAt .stamp 0x5000 8 (zeros 8)) dk)) :=
  ⟨⟨rfl, by decide, rfl⟩, (not_writeWaits_iff _).mpr (by decide), ⟨rfl, by decide, rfl⟩,
    (not_writeWaits_iff _).mpr (by decide)⟩

/-- The last write of an order that a PAINT clear has aborted, and of one that is FAULTED; and a source read answered
while a write of the order is outstanding. -/
theorem test_hyp_FinalStatusIssued :
    ((Instr.pixelWriteResponse, fun k => k == .pixel) : (Nat → Response → Instr) × (BurstKind → Bool)) ∈
        runningResponses ∧
      Awaits (fun k => k == .pixel) (writeTag 0) (burstAt .pixel 0 2 [0, 0]) (writes (burstAt .pixel 0 2 [0, 0]) dk) ∧
      (burstAt .pixel 0 2 [0, 0]).kind.isWrite = true ∧
      ({ held (.fill fill) with decided := some .aborted, oldWalk := true } : Held).decided = some .aborted ∧
      ({ held (.fill fill) with decided := some .fault, phase := .faulted } : Held).decided = some .fault ∧
      ¬WriteWaits (freed (writeTag 0) (writes (burstAt .pixel 0 2 [0, 0]) dk)) ∧
      WriteWaits (freed 0 (reads (burstAt (.copySrc 0) 0x100004 2 []) (writes (burstAt .pixel 0 2 [0, 0]) dk))) :=
  ⟨by simp [runningResponses], ⟨rfl, by decide, rfl⟩, rfl, rfl, rfl, (not_writeWaits_iff _).mpr (by decide),
    (writeWaits_iff _).mpr (by decide)⟩

/-- An ERROR on a source read, with a pixel write outstanding and without; on a remainder read; and on a pixel write of
an order whose walk a PAINT clear has ended, or that is FAULTED already. -/
theorem test_hyp_HeldOrderErrorResult :
    ((Instr.copyReadResponse, BurstKind.isCopySrc) : (Nat → Response → Instr) × (BurstKind → Bool)) ∈ runningResponses ∧
      Awaits BurstKind.isCopySrc 0 (burstAt (.copySrc 0) 0x100004 2 []) (reads (burstAt (.copySrc 0) 0x100004 2 []) dk) ∧
      (∀ d ∈ dk.port.paint, d.kind ≠ .final) ∧
      (freed 0 (reads (burstAt (.copySrc 0) 0x100004 2 []) dk)).port.write = none ∧
      (∃ pl, (freed 0 (writes (burstAt .pixel 0 2 [0, 0]) dk)).port.write = some pl ∧ pl.abandoned = false ∧
        pl.burst.kind.requester = .paint) ∧
      Awaits BurstKind.isRemainder 0 (burstAt (.remainder 0) 0x400C 24 []) (remainderRead 2 24 1 dk) ∧
      ({ held (.copy copy) with oldWalk := true } : Held).oldWalk = true ∧
      ({ held (.copy copy) with phase := .faulted } : Held).phase = .faulted :=
  ⟨by simp [runningResponses], ⟨rfl, by decide, rfl⟩, by decide, by decide, ⟨_, rfl, rfl, rfl⟩, ⟨rfl, by decide, rfl⟩,
    rfl, rfl⟩

theorem test_hyp_FinalStatusWriteResult :
    Awaits (fun k => k == .final) (writeTag 0) (burstAt .final 0x4004 4 [3, 0, 0, 0])
        (writes (burstAt .final 0x4004 4 [3, 0, 0, 0]) dk) ∧
      ({ held (fence 0) with phase := .closing, decided := some .done } : Held).decided = some .done ∧
      (held (fence 0)).oldWalk = false ∧ FinalStatus.done ≠ .fault ∧ dk.paint.reenable = false ∧
      ({ dk with paint := { dk.paint with reenable := true } } : State).paint.reenable = true :=
  ⟨⟨rfl, by decide, rfl⟩, rfl, rfl, by decide, rfl, rfl⟩

/-- A fence in WAITING at a latch point: true of its condition, without a timeout, with one that is reached and one
that is not. -/
theorem test_hyp_WaitingFenceResult :
    (holds (held (fence 1)) (engine .waiting (scanAt .running 480 0 true false dk))).paint.held = some (held (fence 1)) ∧
      (held (fence 1)).order = .fence 1 7 1 ∧ (scanAt .running 480 0 true false dk).scan.output = .running ∧
      (scanAt .running 480 0 true false dk).scan.line = some ⟨480, 0, true, false⟩ ∧
      ¬FenceHolds 1 7 (scanAt .running 480 0 true false dk) ∧ FenceHolds 2 0 (scanAt .running 480 0 true false dk) ∧
      dk.paint.fenceCount + 1 = 1 ∧ dk.paint.fenceCount + 1 ≠ 2 ∧
      WriteWaits (writes (burstAt .active 0x4004 4 [2, 0, 0, 0]) dk) ∧ ¬WriteWaits dk :=
  ⟨rfl, rfl, rfl, rfl, fun h => absurd ((fenceTrue_iff 1 7 _).mpr h) (by decide), (fenceTrue_iff 2 0 _).mp (by decide),
    by decide, by decide, (writeWaits_iff _).mpr (by decide), (not_writeWaits_iff _).mpr (by decide)⟩

/-- FENCE_TIMED_OUT where it is due, and where nothing is held or a fence still waits. -/
theorem test_hyp_WaitingFenceResult_due :
    (holds { held (fence 1) with decided := some .timedOut } dk).paint.held.map Held.decided =
        some (some .timedOut) ∧
      dk.paint.held = none ∧ ∀ h, (waits (fence 1) dk).paint.held = some h → h.decided ≠ some .timedOut :=
  ⟨rfl, rfl, fun _ h => by cases h; exact nofun⟩

/-! ### Hypotheses: the fault unit, the status writer and the memory port -/

def sceneReport : Report :=
  { source := .scene, code := .busFault, slot := none, window := none, seq := 0, addr := 0x80020 }

def reported (later : Nat) (latch : Bool) (s : State) : State :=
  { s with fault := { s.fault with latch := latch, later := later, reports := [sceneReport] } }

/-- The latch clear, and set with the count below its bound and at it. -/
theorem test_hyp_FaultReportResult :
    (reported 0 false dk).fault.reports = [] ++ sceneReport :: [] ∧ sceneReport.source = .scene ∧
      (reported 65534 true dk).fault.later < 65535 ∧ 65535 ≤ (reported 65535 true dk).fault.later := by decide

def wanting (block record count busy : Bool) (s : State) : State :=
  { s with writer := { update := 0, wantBlock := block, wantRecord := record, wantCount := count, busy := busy } }

theorem test_hyp_StatusWriterResult :
    (wanting true false false false State.reset).regs.dirBase = 0 ∧ (wanting true false false false dk).writer.wantBlock = true ∧
      (wanting true true true false dk).writer.wantRecord = true ∧ (wanting true false true false dk).writer.wantCount = true ∧
      becomes (exec .statusBlockWrite (wanting true false false true dk)) (wanting true false false true dk) = true ∧
      becomes (exec .statusBlockWrite (wanting true true false false dk)) (wanting true true false false dk) = true ∧
      becomes (exec .countWrite (wanting false true true false dk)) (wanting false true true false dk) = true ∧
      Awaits BurstKind.isStatus (writeTag 0) (burstAt .status 0x800A0 4 (zeros 4))
        (writes (burstAt .status 0x800A0 4 (zeros 4)) (wanting false false false true dk)) :=
  ⟨by decide, rfl, rfl, rfl, by decide +kernel, by decide +kernel, by decide +kernel, rfl, by decide, rfl⟩

/-- The loader's place after the grant of a read before a write that asks for the block, after that of a SKIPPED write
before a RETIRED and a SHOWN one, and after the grant of its last burst. -/
theorem test_hyp_BurstGrantResult_asks :
    (queued [descriptor0, askingWrite] dk).port.presented .loader = some descriptor0 ∧
      (queued [descriptor0, askingWrite] dk).port.loader.tail.head?.any Burst.asks = true ∧
      (queued [unasked askingWrite, unasked askingWrite, askingWrite] dk).port.loader.tail.head?.any Burst.asks = false ∧
      (queued [descriptor0] dk).port.loader.tail.head?.any Burst.asks = false := by decide

/-- A paint read presented with every higher requester presenting nothing or a write while one is outstanding; a burst
past the top; and nothing presented. -/
theorem test_hyp_BurstGrantResult :
    (∃ b, ({ dk.port with paint := [burstAt .link 0x4000 4 []] } : Port).presented .paint = some b ∧ b.beyond = false ∧
        b.kind.isWrite = false) ∧
      ¬Blocked { dk.port with paint := [burstAt .link 0x4000 4 []] } .paint ∧
      (∀ p ∈ outranks .paint, Blocked { dk.port with paint := [burstAt .link 0x4000 4 []] } p) ∧
      (∀ q, Blocked dk.port q) ∧
      Blocked { (writes (burstAt .status 0 4 (zeros 4)) dk).port with status := [burstAt .status 4 4 (zeros 4)] } .status ∧
      (burstAt (.span 0 0 0) (2 ^ 32) 8 []).beyond = true ∧ (burstAt (.span 0 0 0) (2 ^ 32 - 1) 1 []).beyond = false := by
  refine ⟨⟨_, rfl, by decide, rfl⟩, fun h => ?_, fun p hp b hb => ?_, fun q b hb => ?_, fun b hb => ?_, by decide, by decide⟩
  · exact absurd ((h _ rfl).2 rfl) (by decide)
  · fin_cases hp <;> cases hb
  · cases q <;> cases hb
  · cases hb
    exact ⟨fun _ => by decide, fun h => by cases h⟩

/-- A body read past the top, granted by a port that has carried nothing. -/
theorem test_hyp_BurstGrantResult_beyond :
    (queued [burstAt (.body 8) (2 ^ 32) 16 []] dk).port.presented .loader = some (burstAt (.body 8) (2 ^ 32) 16 []) ∧
      ((Instr.bodyBurstResponse, BurstKind.isBody) : (Nat → Response → Instr) × (BurstKind → Bool)) ∈ allResponses ∧
      BurstKind.isBody (.body 8) = true ∧ PortWf (queued [burstAt (.body 8) (2 ^ 32) 16 []] dk).port :=
  ⟨rfl, by simp [allResponses], rfl, by decide, by decide, by decide, nofun⟩

/-- A burst whose line has ended, a response that matches no place, and an abandoned read and write. -/
theorem test_hyp_ResponsesDiscarded :
    ((Instr.spanBurstResponse, BurstKind.isSpan) : (Nat → Response → Instr) × (BurstKind → Bool)) ∈ allResponses ∧
      (reads (burstAt (.span 0 0 0) 0 8 []).drop dk).port.find BurstKind.isSpan 0 =
        some (burstAt (.span 0 0 0) 0 8 []).drop ∧
      dk.port.find BurstKind.isSpan 0 = none ∧
      (∃ pl ∈ ({ dk.port with reads := [⟨7, burstAt .link 0 4 [], true⟩] } : Port).reads,
        pl.tag = 7 ∧ pl.abandoned = true) ∧
      (∃ pl, ({ dk.port with write := some ⟨writeTag 0, burstAt .final 0 4 (zeros 4), true⟩ } : Port).write = some pl ∧
        pl.tag = writeTag 0 ∧ pl.abandoned = true) ∧
      becomes (exec (.abandonedResponse 3 .error) dk) dk = true :=
  ⟨by simp [allResponses], by decide, by decide, ⟨_, List.mem_singleton.mpr rfl, rfl, rfl⟩, ⟨_, rfl, rfl, rfl⟩,
    by decide +kernel⟩

/-- A read answered OK with other beats than its own, a write that is discarded, and the place of a read. -/
theorem test_hyp_ResponsesDiscarded_places :
    (reads descriptor0 dk).port.find BurstKind.isDescriptor 0 = some descriptor0 ∧ descriptor0.kind.isWrite = false ∧
      (zeros 16).length ≠ beatBytes descriptor0 ∧ (burstAt .status 0 4 (zeros 4)).drop.kind.isWrite = true ∧
      (burstAt .status 0 4 (zeros 4)).drop.dropped = true ∧ PortWf (reads descriptor0 dk).port ∧
      ∃ pl ∈ (reads descriptor0 dk).port.reads, pl.tag = 0 ∧ pl.abandoned = false ∧
        BurstKind.isDescriptor pl.burst.kind = true ∧ pl.burst = descriptor0 :=
  ⟨by decide, rfl, by decide, rfl, rfl, ⟨by decide, by decide, by decide, nofun⟩, _, .head _, rfl, rfl, rfl, rfl⟩

/-- A write granted before a power-on reset, and the part after it. -/
theorem test_hyp_ResponsesDiscarded_epochs :
    PortWf (writes (burstAt .final 0 4 (zeros 4)) dk).port ∧ PortWf { dk.port with epoch := 1 } ∧
      (writes (burstAt .final 0 4 (zeros 4)) dk).port.epoch < ({ dk.port with epoch := 1 } : Port).epoch ∧
      (writes (burstAt .final 0 4 (zeros 4)) dk).port.write =
        some ⟨writeTag 0, burstAt .final 0 4 (zeros 4), false⟩ :=
  ⟨⟨by decide, by decide, by decide, fun pl h => by cases h; rfl⟩, ⟨by decide, by decide, by decide, nofun⟩, by decide,
    rfl⟩

/-- A run that ends at the last byte of the address space, written and read. -/
theorem test_hyp_RunsAreCutAtMultiplesOf64 :
    0xFFFFFFC1 + 63 ≤ 2 ^ 32 ∧ (zeros 63).length = 63 ∧ (([] : List Byte) = []) := by decide

/-- One byte at the end of a beat, and two across it. -/
theorem test_beats : beatBytes (burstAt .link 7 1 []) = 8 ∧ beatBytes (burstAt .link 7 2 []) = 16 ∧
    1 ≤ (burstAt .link 7 1 []).len := by decide

/-- A run of two bursts. -/
theorem test_hyp_RunsAreCutAtMultiplesOf64_first :
    (runBursts .body 0xFFFFFFBF 65 [])[0]? = some (burstAt (.body 0) 0xFFFFFFBF 1 []) ∧
      0 + 1 < (runBursts .body 0xFFFFFFBF 65 []).length := by decide

/-- A run that passes the top after 8 bytes: what lies beyond is cut at the multiples of 64 and stands at address 0. -/
theorem test_hyp_RunsAreCutAtMultiplesOf64_beyond :
    ((runBursts .body 0xFFFFFFF8 80 []).map fun b => (b.addr, b.len, b.beyond)) =
      [(0xFFFFFFF8, 8, false), (0, 64, true), (0, 8, true)] := by decide +kernel

theorem test_hyp_PixelResolution :
    (tickerShown dk).loader.shownTable[(⟨0, 0, 800, 0, false⟩ : Listed).pos]? =
        some ⟨16, ⟨0, 0, 800, 48⟩, .surface (ticker 0)⟩ ∧
      ({ (tickerShown dk).fetch with reading := [⟨0, .complete, [], zeros 3200, 0⟩] } : Fetch).reading[0]? =
        some ⟨0, .complete, [], zeros 3200, 0⟩ ∧
      (0 ≤ 799 ∧ 799 < 0 + 800) ∧ 0 + 800 ≤ 800 ∧ 16 ≤ 16 ∧ (shown dk).loader.shownSlot ≠ none ∧
      (shown dk).comp.current = [] ∧ (scanAt .running 0 0 false false dk).scan.timing = some tm ∧
      (scanAt .running 0 0 false false dk).loader.shownSlot = none ∧ dk.scan.output.sends = false ∧
      dk.scan.timing = none :=
  ⟨rfl, rfl, by decide, by decide, by decide, by decide, rfl, rfl, rfl, rfl, rfl⟩

/-- R79: magenta, red and blue at their largest with no green (section 4.3.1), and the largest green. -/
theorem test_hyp_PixelResolution_expansion :
    u16 (zeros 2 ++ le16 0xF81F) 2 = 31 * 2048 + 0 * 32 + 31 ∧
      rgbOfRaw .rgb565 (zeros 2 ++ le16 0xF81F) 2 = ⟨255, 0, 255⟩ ∧ u16 (le16 0x07E0) 0 = 0 * 2048 + 63 * 32 + 0 ∧
      rgbOfRaw .rgb565 (le16 0x07E0) 0 = ⟨0, 255, 0⟩ := by decide

theorem test_hyp_CopyPlacesEveryPixelOnce :
    copy.rotation.toNat ≤ 3 ∧ 2 < copy.w ∧ 1 < copy.h ∧ 1 < copy.dstW ∧ 2 < copy.dstH ∧ copy.place 0 0 = (1, 2) := by
  decide

/-- A row of the turned COPY, which passes every check, with a row buffer that holds what its reads return. -/
theorem test_hyp_CopyPlacesEveryPixelOnce_row :
    (∀ code ∈ orderChecks, ¬OrderFails (.copy copy) code) ∧ Format.ofByte copy.src.format = some .rgb565 ∧
      Format.ofByte copy.dst.format = some .xrgb8888 ∧ 2 < copy.dstH ∧
      ∀ b ∈ copy.rowReads 2, ∃ off, b.kind = .copySrc off ∧
        ∀ k < b.len, (zeros 4)[off + k]? = some ((fun _ => 0 : Nat → Byte) (b.addr.toNat + k)) := by
  refine ⟨fun code hc => ?_, by decide, by decide, by decide, fun b hb => ?_⟩
  · revert code
    simp [orderChecks, OrderFails, BaseOrPitchBad, SurfaceBad, RectBad, copySource, copyTarget, copy]
  · have e : copy.rowReads 2 = [burstAt (.copySrc 0) 0x100000 2 [], burstAt (.copySrc 2) 0x100008 2 []] := by decide
    rw [e] at hb
    fin_cases hb
    · exact ⟨0, rfl, by decide⟩
    · exact ⟨2, rfl, by decide⟩

/-- A COPY one row down its own surface, whose rows are taken from below, and one that lies elsewhere. -/
def scroll : CopyFields :=
  { copy with dst := copy.src, rotation := 0, mirror := false, dy := 1 }

theorem test_hyp_CopyPlacesEveryPixelOnce_rows :
    FromBelow scroll ∧ scroll.rowIndex 0 = 1 ∧ ¬FromBelow copy ∧ copy.rowIndex 2 = 2 ∧ fill.dst.format = 1 ∧
      ({ fill.dst with format := 2 } : OrderSurface).format = 2 :=
  ⟨⟨rfl, rfl, ⟨0, 1, by simp [InRect, copySource, copyTarget, scroll, copy]⟩, by decide⟩, by decide,
    fun h => absurd h.1 (by decide), by decide, rfl, rfl⟩

/-- A FILL that passes every check, its last row; and a row whose last byte is the last one of the address space. -/
theorem test_hyp_CopyPlacesEveryPixelOnce_writes :
    (∀ code ∈ orderChecks, ¬OrderFails (.fill fill) code) ∧ Paints (.fill fill) fill.dst fill.rect ∧ 1 < fill.rect.h ∧
      pixelAddress { fill.dst with base := 0xFFFFFFF8 } 2 0 + [0, 0, 0, 0].length = 2 ^ 32 ∧
      ((rowWrites { fill.dst with base := 0xFFFFFFF8 } 2 0 [1, 2, 3, 4]).map fun b => (b.addr, b.data)) =
        [(0xFFFFFFFC, [1, 2, 3, 4])] := by
  refine ⟨fun code hc => ?_, .inr ⟨_, rfl, rfl, rfl⟩, by decide, by decide, by decide⟩
  revert code
  simp [orderChecks, OrderFails, BaseOrPitchBad, SurfaceBad, RectBad, fill]

theorem test_hyp_CountersAndRecordsChangeOnlyByTheirOwners :
    Instr.frameMark.wellFormed = true ∧ Instr.frameMark.isReset = false ∧ becomes (exec .frameMark dk) dk = true := by
  decide +kernel

/-- The invariants hold of `dk`, whose step is next. -/
theorem test_hyp_invariants :
    PortWf dk.port ∧ FaultWf dk.fault ∧ RegsWf dk ∧ becomes (step dk) dk = true :=
  ⟨⟨by decide, by decide, by decide, by decide⟩, ⟨fun _ => rfl, by decide⟩, ⟨by decide, fun h => absurd rfl h⟩,
    by decide +kernel⟩

/-- The scan's invariant holds in a frame, at the last period of its last line. -/
theorem test_hyp_ScanWfIsKept :
    ScanWf (scanAt .running 524 959 false true dk).scan ∧ RegsWf (scanAt .running 524 959 false true dk) :=
  ⟨⟨rfl, rfl, rfl, rfl, nofun, fun _ => rfl, fun t h => by cases h; decide, fun t lp h k => by cases h; cases k; decide⟩,
    by decide, fun _ => by decide⟩

theorem test_emptyTable : TableFits [] :=
  ⟨by decide, fun _ => Nat.zero_le _, fun _ => Nat.zero_le _⟩

/-- The loader's invariant holds with a scene staged. -/
theorem test_hyp_LoaderWfIsKept : LoaderWf (staged dk).loader :=
  { shownFits := test_emptyTable
    stagedFits := test_emptyTable
    view := rfl
    stagedNone := nofun
    shownNone := fun _ => ⟨rfl, rfl⟩
    frames := Nat.zero_le _
    minShown := ⟨by decide, by decide⟩
    minStaged := fun st h => by cases h; exact ⟨by decide, by decide⟩
    notShown := fun _ => ⟨rfl, rfl⟩
    idle := fun _ => rfl }

/-- The load's invariant holds with a scene shown and a newer one staged in another slot. -/
theorem test_hyp_LoaderWfIsKept_load :
    PortWf (staged (shown dk)).port ∧ LoadWf (staged (shown dk)) ∧ (staged (shown dk)).loader.hasShown = true :=
  ⟨⟨by decide, by decide, by decide, by decide⟩,
    { asked := rfl
      idle := fun _ => rfl
      reads := nofun
      read := fun n h => absurd (by revert n; decide) h
      chosen := nofun
      choosing := fun h => absurd rfl h
      alone := fun _ => ⟨rfl, rfl, rfl⟩
      newer := fun st h => by cases h; decide
      apart := fun st h => by cases h; decide
      elsewhere := nofun }, rfl⟩

/-- A reset with a scene shown, by the row of the action and by an ill-formed one. -/
theorem test_hyp_LoaderWfIsKept_reset :
    ((shown dk).withQueue [.softReset]).pending = .softReset :: [] ∧ Instr.softReset.isReset = true ∧
      (Instr.registerWriteOther 0x0C 4).wellFormed = false := by decide

end Sys2Proof.Tests
end

section
/-! The failed timing read (R52, R57): the return of an entry to LOCKING to its origin, and the ERROR that causes it. -/

namespace Sys2Proof.Machine

/-- The bit of OUTPUT_STOPPED in EVENTS (section 8.5). -/
theorem mask_outputStopped : Event.outputStopped.mask = 0x080 := by decide

/-- R57: a failed entry with an origin is the return to it, whatever the fault reported. -/
theorem failEntry_eq_returnedToOrigin {o : Origin} {s : State} (code : Code) (addr : Word)
    (ho : s.scan.origin = some o) : failEntry code addr s = returnedToOrigin o code addr s := by
  simp only [failEntry, ho, returnedToOrigin, ← mask_outputStopped]
  rfl

/-- R52: the entry that waits for the timing read fails with BUS_FAULT at the burst's address. -/
theorem answerTiming_error {b : Burst} {s : State} (hout : s.scan.output = .locking)
    (hphase : s.scan.lockPhase = some .reading) : answerTiming b none s = failEntry .busFault b.addr s :=
  if_pos ⟨hout, hphase⟩

/-- Settles O24: the ERROR frees the read's place, which leaves the scan timing unit in the lock phase READING with its
origin, and the failed entry then returns there. -/
theorem timingReadErrorReturnsToOrigin : Obligations.TimingReadErrorReturnsToOrigin := by
  intro tag b o s hawaits hout hphase horigin
  have hscan : (freed tag s).scan = s.scan := modPort_scan s (Port.free tag)
  calc exec (.timingReadResponse tag .error) s
      = .next (answerTiming b none (freed tag s)) := respond_error answerTiming hawaits
    _ = .next (failEntry .busFault b.addr (freed tag s)) := by
        rw [answerTiming_error (hscan ▸ hout) (hscan ▸ hphase)]
    _ = .next (returnedToOrigin o .busFault b.addr (freed tag s)) := by
        rw [failEntry_eq_returnedToOrigin _ _ (hscan ▸ horigin)]

end Sys2Proof.Machine
end

section
/-! EVENTS, EVENT_ENABLE and IRQ_N (R157, R158): the flags bit by bit, what sets and clears them, and the line. -/

namespace Sys2Proof.Machine

/-! ### The twelve events and their bits (section 8.5) -/

/-- The twelve events, in the order of their bits. -/
def allEvents : List Event :=
  [.sceneTaken, .sceneRejected, .frameMark, .underrun, .fetchFault, .locked, .parked, .outputStopped, .paintNotify,
    .paintHalted, .errorLatched, .configRefused]

theorem mem_allEvents (e : Event) : e ∈ allEvents := by
  cases e <;> decide

/-- The events and the bits 0 to 11 are matched one to one; the three lemmas below read this off. -/
theorem allEvents_map_bit : allEvents.map Event.bit = List.range 12 := rfl

theorem Event.bit_lt (e : Event) : e.bit < 12 :=
  List.mem_range.mp (allEvents_map_bit ▸ List.mem_map_of_mem (mem_allEvents e))

theorem Event.exists_bit_eq {i : Nat} (h : i < 12) : ∃ e : Event, e.bit = i := by
  have hi : i ∈ allEvents.map Event.bit := allEvents_map_bit ▸ List.mem_range.mpr h
  obtain ⟨e, -, he⟩ := List.mem_map.mp hi
  exact ⟨e, he⟩

theorem Event.bit_injective : Function.Injective Event.bit := fun e f h =>
  List.inj_on_of_nodup_map (allEvents_map_bit ▸ List.nodup_range) (mem_allEvents e) (mem_allEvents f) h

/-! ### The registers, flag by flag -/

/-- R157: raising an event sets its own flag and no other. -/
theorem Regs.isPending_raise (e f : Event) (r : Regs) : (r.raise e).isPending f = (r.isPending f || e == f) := by
  have hbit : (e.bit = f.bit) = (e = f) := propext Event.bit_injective.eq_iff
  simp [Regs.isPending, Regs.raise, Event.mask, BitVec.getLsbD_twoPow, e.bit_lt, hbit, Bool.beq_eq_decide_eq]

/-- R157: a write to EVENTS clears the flags whose bits it writes as one. -/
theorem Regs.isPending_clearEvents (v : Word) (r : Regs) (e : Event) :
    (r.clearEvents v).isPending e = (r.isPending e && !v.getLsbD e.bit) := by
  simp [Regs.isPending, Regs.clearEvents, e.bit_lt]

/-- R158: a write to EVENT_ENABLE sets each event's enable to its bit. -/
theorem Regs.enable_setEnable (v : Word) (r : Regs) (e : Event) :
    (r.setEnable v).enable.getLsbD e.bit = v.getLsbD e.bit := by
  simp [Regs.setEnable, e.bit_lt]

/-- Bits 12 to 31 of a register that keeps twelve bits read 0. -/
theorem zeroExtend_extractLsb'_high (x : BitVec 12) : (x.zeroExtend 32).extractLsb' 12 20 = 0 := by
  refine BitVec.eq_of_getLsbD_eq fun i hi => ?_
  simp

theorem readReg_events {s : State} (h : s.resetHeld = false) : readReg 0x10 s = s.regs.events.zeroExtend 32 := by
  simp [readReg, h]

theorem readReg_enable {s : State} (h : s.resetHeld = false) : readReg 0x14 s = s.regs.enable.zeroExtend 32 := by
  simp [readReg, h]

theorem readReg_events_high {s : State} (h : s.resetHeld = false) : (readReg 0x10 s).extractLsb' 12 20 = 0 := by
  rw [readReg_events h, zeroExtend_extractLsb'_high]

theorem readReg_enable_high {s : State} (h : s.resetHeld = false) : (readReg 0x14 s).extractLsb' 12 20 = 0 := by
  rw [readReg_enable h, zeroExtend_extractLsb'_high]

/-! ### The commands that write the two registers -/

theorem exec_eventsWrite {s : State} (v : Word) (h : s.resetHeld = false) :
    exec (.eventsWrite v) s = .next (s.modRegs (Regs.clearEvents v)) :=
  (live_running h).trans (by rw [hostWrite_events])

theorem exec_eventEnableWrite {s : State} (v : Word) (h : s.resetHeld = false) :
    exec (.eventEnableWrite v) s = .next (s.modRegs (Regs.setEnable v)) :=
  (live_running h).trans (by rw [hostWrite_enable])

theorem exec_softReset {s : State} (h : s.resetHeld = false) : exec .softReset s = .next (resetSoft s) :=
  (live_running h).trans (by rw [hostWrite_action, writeAction_softReset])

/-! ### What keeps the event flags -/

/-- R157: every event pending in `s` is pending in `t`. -/
def KeepsEvents (s t : State) : Prop :=
  ∀ e : Event, s.regs.isPending e = true → t.regs.isPending e = true

theorem KeepsEvents.refl (s : State) : KeepsEvents s s := fun _ h => h

theorem KeepsEvents.trans {s t u : State} (h : KeepsEvents s t) (k : KeepsEvents t u) : KeepsEvents s u :=
  fun e he => k e (h e he)

theorem KeepsEvents.of_events {s t : State} (h : t.regs.events = s.regs.events) : KeepsEvents s t := fun e he => by
  rwa [Regs.isPending, h]

/-- An operation that keeps the flags keeps them from an earlier state with the same EVENTS too. -/
theorem KeepsEvents.after {s t u : State} (k : KeepsEvents t u) (h : t.regs.events = s.regs.events) : KeepsEvents s u :=
  (of_events h).trans k

theorem Plain.keepsEvents {s t : State} (h : Plain s t) : KeepsEvents s t := fun e => h.events e.bit

theorem Mild.keepsEvents {s t : State} (h : Mild s t) : KeepsEvents s t := h.plain.keepsEvents

theorem Quiet.keepsEvents {s t : State} (h : Quiet s t) : KeepsEvents s t := h.plain.keepsEvents

theorem raise_keepsEvents (e : Event) (s : State) : KeepsEvents s (raise e s) :=
  (raise_quiet e s).keepsEvents

theorem live_keepsEvents {f : State → State} {s t : State} (h : live f s = .next t) (k : KeepsEvents s (f s)) :
    KeepsEvents s t := by
  obtain ⟨-, rfl⟩ | ⟨-, rfl⟩ := live_cases h
  · exact .refl _
  · exact k

theorem writeDirBase_keepsEvents (v : Word) (s : State) : KeepsEvents s (writeDirBase v s) := by
  unfold writeDirBase
  split
  · exact .of_events rfl
  · exact raise_keepsEvents _ s

theorem clearLatch_keepsEvents (s : State) : KeepsEvents s (clearLatch s) := by
  unfold clearLatch
  split
  · exact .of_events rfl
  · exact .refl s

theorem countReport_keepsEvents (s : State) : KeepsEvents s (countReport s) := by
  unfold countReport
  split
  · exact .of_events rfl
  · exact .refl s

theorem latchReport_keepsEvents (r : Report) (s : State) : KeepsEvents s (latchReport r s) :=
  (raise_keepsEvents _ _).after rfl

theorem takeReport_keepsEvents (source : Source) (s : State) : KeepsEvents s (takeReport source s) := by
  unfold takeReport
  split
  · exact .refl s
  · dsimp only
    split
    · exact (countReport_keepsEvents _).after rfl
    · exact (latchReport_keepsEvents _ _).after rfl

theorem beginBlock_keepsEvents (s : State) : KeepsEvents s (beginBlock s) := by
  unfold beginBlock
  split
  · exact .of_events rfl
  · exact .refl s

/-- R102: the end of a fetch at most raises UNDERRUN. -/
theorem endFetch_keepsEvents (s : State) : KeepsEvents s (endFetch s) := by
  unfold endFetch
  dsimp only
  split
  · exact (raise_keepsEvents _ _).after rfl
  · exact .of_events rfl

theorem composeLine_keepsEvents (t : Timing) (n : Nat) (s : State) : KeepsEvents s (composeLine t n s) := by
  have hlist : KeepsEvents s (takeList (endFetch s)) :=
    (endFetch_keepsEvents s).trans (takeList_quiet _).keepsEvents
  unfold composeLine
  dsimp only
  split
  · split
    · exact hlist.trans (formLine_quiet _ _ _).keepsEvents
    · exact hlist
  · exact .of_events rfl

theorem lineStart_keepsEvents (s : State) : KeepsEvents s (lineStart s) := by
  unfold lineStart
  split
  · split
    · exact (composeLine_keepsEvents _ _ _).after rfl
    · exact .refl s
  · exact .refl s

theorem latchRunning_keepsEvents (t : Timing) (lp : LinePos) (s : State) : KeepsEvents s (latchRunning t lp s) := by
  have hscan : KeepsEvents s (decideMark t (advanceFrame lp s)) := .of_events rfl
  exact hscan.trans (((beginLoad_quiet _).trans (latchPaint_quiet _ _)).trans (askBlock_quiet _)).keepsEvents

theorem latchParking_keepsEvents (lp : LinePos) (s : State) : KeepsEvents s (latchParking lp s) := by
  have hframe : KeepsEvents s (advanceFrame lp s) := .of_events rfl
  have hparked (u : State) : KeepsEvents u (scanParked u) := .of_events rfl
  exact ((hframe.trans (latchPaint_quiet _ _).keepsEvents).trans (hparked _)).trans (enterParked_mild _).keepsEvents

theorem latch_keepsEvents (s : State) : KeepsEvents s (latch s) := by
  unfold latch
  split
  · split
    · split
      · exact latchRunning_keepsEvents _ _ s
      · exact latchParking_keepsEvents _ s
      all_goals exact .refl s
    · exact .refl s
  · exact .refl s

/-! ### The row REGISTER_WRITE_OTHER (R172, R176) -/

/-- R172: a write to IDENT, to STATE or from 0x1C upward is ignored. -/
theorem hostWrite_ignored {o : Word} (v : Word) (s : State) (h : o = 0x00 ∨ o = 0x18 ∨ 0x1C ≤ o.toNat) :
    hostWrite o v s = s := by
  obtain rfl | rfl | h := h
  · rfl
  · rfl
  · unfold hostWrite
    split
    iterate 5 · omega
    · rfl

/-- R176: an action code that is none of 1 to 4 is refused. -/
theorem writeAction_unknown {v : Word} (s : State) (h : ¬(1 ≤ v.toNat ∧ v.toNat ≤ 4)) : writeAction v s = refuse s := by
  unfold writeAction
  split
  iterate 4 · omega
  · rfl

/-- The operand check of the row: the write is one that is ignored, or an action code that is none of 1 to 4. -/
theorem otherWriteOk_cases {o v : Word} (h : otherWriteOk o v = true) :
    (o = 0x00 ∨ o = 0x18 ∨ 0x1C ≤ o.toNat) ∨ o = 0x0C ∧ ¬(1 ≤ v.toNat ∧ v.toNat ≤ 4) := by
  simp only [otherWriteOk, Bool.and_eq_true, Bool.or_eq_true, Bool.not_eq_true', beq_iff_eq, decide_eq_true_eq,
    Bool.and_eq_false_iff, decide_eq_false_iff_not] at h
  tauto

theorem hostWrite_other_keepsEvents {o v : Word} (s : State) (h : otherWriteOk o v = true) :
    KeepsEvents s (hostWrite o v s) := by
  obtain hignored | ⟨rfl, hcode⟩ := otherWriteOk_cases h
  · rw [hostWrite_ignored v s hignored]
    exact .refl s
  · rw [hostWrite_action, writeAction_unknown s hcode]
    exact raise_keepsEvents _ s

/-! ### Every command but an EVENTS write and a reset -/

/-- R157: no well-formed command but a write to EVENTS and a reset clears an event flag. -/
theorem exec_keepsEvents {c : Instr} {s u : State} (hwf : c.wellFormed = true) (hwrite : ∀ v, c ≠ .eventsWrite v)
    (hreset : c.isReset = false) (h : exec c s = .next u) : KeepsEvents s u := by
  cases howns : ownsMore c with
  | false => exact (exec_plain h howns).keepsEvents
  | true =>
    cases c with
    | dirBaseWrite v => exact live_keepsEvents h (hostWrite_dirBase v s ▸ writeDirBase_keepsEvents v s)
    | eventsWrite v => exact absurd rfl (hwrite v)
    | eventEnableWrite v =>
      refine live_keepsEvents h ?_
      rw [hostWrite_enable]
      exact .of_events rfl
    | registerWriteOther o v => exact live_keepsEvents h (hostWrite_other_keepsEvents s hwf)
    | clearFault =>
      refine live_keepsEvents h ?_
      rw [hostWrite_action, writeAction_clearFault]
      exact clearLatch_keepsEvents s
    | faultReport source => exact live_keepsEvents h (takeReport_keepsEvents source s)
    | latchPoint => exact live_keepsEvents h (latch_keepsEvents s)
    | startOfLine => exact live_keepsEvents h (lineStart_keepsEvents s)
    | statusBlockWrite => exact live_keepsEvents h (beginBlock_keepsEvents s)
    | softReset | powerOnReset => exact Bool.noConfusion hreset
    | resetNRelease =>
      obtain rfl : { s with resetHeld := false } = u := Host.Outcome.next.inj h
      exact .of_events rfl
    | _ => exact Bool.noConfusion howns

/-- Settles O20: the bits are those of `allEvents`, each write is read flag by flag, and the flags stay set by
`exec_keepsEvents`. -/
theorem eventFlagsStayUntilCleared : Obligations.EventFlagsStayUntilCleared := by
  refine ⟨allEvents_map_bit, fun e r => ⟨rfl, rfl⟩, Regs.isPending_raise, fun v s hlive => ?_, ?_, fun s => ?_⟩
  · exact ⟨_, exec_eventsWrite v hlive, rfl, s.regs.isPending_clearEvents v, readReg_events_high hlive⟩
  · exact fun c s u e hwf hwrite hreset h => exec_keepsEvents hwf hwrite hreset h e
  · exact ⟨⟨_, rfl, rfl⟩, fun hlive => ⟨_, exec_softReset hlive, rfl⟩⟩

/-! ### IRQ_N (R158) -/

/-- R158: IRQ_N is low exactly while some event is both pending and enabled. -/
theorem irqN_eq_false_iff (s : State) :
    irqN s = false ↔ ∃ e : Event, s.regs.isPending e = true ∧ s.regs.enable.getLsbD e.bit = true := by
  have hzero : s.regs.events &&& s.regs.enable = 0 ↔
      ∀ e : Event, ¬(s.regs.isPending e = true ∧ s.regs.enable.getLsbD e.bit = true) := by
    constructor
    · intro h e
      have hbit := congrArg (·.getLsbD e.bit) h
      simpa [Regs.isPending] using hbit
    · refine fun h => BitVec.eq_of_getLsbD_eq fun i hi => ?_
      obtain ⟨e, rfl⟩ := Event.exists_bit_eq hi
      simpa [Regs.isPending] using h e
  rw [irqN, beq_eq_false_iff_ne, ne_eq, hzero, not_forall_not]

/-- R157, R158: raising an event does not release the line. -/
theorem irqN_raise {s : State} (e : Event) (h : irqN s = false) : irqN (raise e s) = false := by
  obtain ⟨f, hpending, henabled⟩ := (irqN_eq_false_iff s).mp h
  exact (irqN_eq_false_iff _).mpr ⟨f, raise_keepsEvents e s f hpending, henabled⟩

/-- Settles O21: the line is read off the two registers by `irqN_eq_false_iff`, after a write to EVENT_ENABLE with the
enables that `Regs.enable_setEnable` gives. -/
theorem irqFollowsPendingAndEnabled : Obligations.IrqFollowsPendingAndEnabled := by
  refine ⟨irqN_eq_false_iff, fun e s => irqN_raise e, fun v s hlive => ?_⟩
  have henable (e : Event) : (s.regs.setEnable v).enable.getLsbD e.bit = v.getLsbD e.bit :=
    s.regs.enable_setEnable v e
  refine ⟨_, exec_eventEnableWrite v hlive, rfl, henable, readReg_enable_high hlive, ?_⟩
  refine (irqN_eq_false_iff _).trans (exists_congr fun e => ?_)
  exact and_congr_right fun _ => by rw [modRegs_regs, henable]

end Sys2Proof.Machine
end

section
/-! The actions NUDGE, CLEAR_FAULT and RESUME (R177, R178, R126, R151): each command as the operation of its block, and
that operation case by case. -/

namespace Sys2Proof.Machine

/-! ### The actions as operations of their blocks (section 10.5) -/

theorem exec_nudge {s : State} (h : s.resetHeld = false) : exec .nudge s = .next (nudgeEngine s) :=
  (live_running h).trans (by rw [hostWrite_action, writeAction_nudge])

theorem exec_clearFault {s : State} (h : s.resetHeld = false) : exec .clearFault s = .next (clearLatch s) :=
  (live_running h).trans (by rw [hostWrite_action, writeAction_clearFault])

theorem exec_resume {s : State} (h : s.resetHeld = false) : exec .resume s = .next (resumeEngine s) :=
  (live_running h).trans (by rw [hostWrite_action, writeAction_resume])

/-! ### The refusal (R176) -/

/-- The bit of CONFIG_REFUSED in EVENTS (section 8.5). -/
theorem mask_configRefused : Event.configRefused.mask = 0x800 := by decide

theorem refuse_eq_refused (s : State) : refuse s = refused s := by
  rw [refused, ← mask_configRefused]
  rfl

/-! ### The tail re-read (R117, R126) -/

/-- `TailReread` with its frame: the re-read enters LOADING, presents its one burst, and changes nothing else. -/
theorem rereadTail_eq (s : State) :
    rereadTail s =
      { s with
        paint := { s.paint with engine := .loading }
        port :=
          { s.port with
            paint :=
              s.port.paint ++
                [burstAt .tail
                  (if s.paint.chainPos = 0 then s.regs.dirBase.toNat + 0x18 else s.paint.chainPos.toNat) 4 []] } } := by
  obtain ⟨hpaint, hbursts⟩ := rereadTail_reread s
  calc rereadTail s
      = { s with paint := (rereadTail s).paint, port := { s.port with paint := (rereadTail s).port.paint } } :=
        (rereadTail_issues s).eq
    _ = _ := by rw [hpaint, hbursts]

/-! ### The operations, case by case -/

theorem nudgeEngine_atTail {s : State} (h : s.paint.engine = .atTail) : nudgeEngine s = rereadTail s := if_pos h

theorem nudgeEngine_elsewhere {s : State} (h : s.paint.engine ≠ .atTail) : nudgeEngine s = s := if_neg h

theorem clearLatch_set {s : State} (h : s.fault.latch = true) :
    clearLatch s =
      askBlock
        (askRecord
          (s.modFault fun f => { f with latch := false, later := 0, record := { f.record with code := .none } })) :=
  if_pos h

theorem clearLatch_clear {s : State} (h : s.fault.latch = false) : clearLatch s = s := if_neg (by simp [h])

theorem resumeEngine_halted {s : State} (h : s.paint.engine = .halted) :
    resumeEngine s = rereadTail (s.modPaint fun p => { p with passedOver := 0 }) := if_pos h

theorem resumeEngine_elsewhere {s : State} (h : s.paint.engine ≠ .halted) : resumeEngine s = refused s :=
  (if_neg h).trans (refuse_eq_refused s)

/-! ### The two statements -/

/-- Settles O15: a NUDGE AT_TAIL is the tail re-read of `rereadTail_eq`, and a CLEAR_FAULT of a set latch is the
clearing with its two requests to the status writer. -/
theorem nudgeAndClearFaultResult : Obligations.NudgeAndClearFaultResult := by
  refine fun s hlive => ⟨fun htail => ?_, fun helse => ?_, fun hset => ?_, fun hclear => ?_⟩
  · rw [exec_nudge hlive, nudgeEngine_atTail htail, rereadTail_eq]
  · rw [exec_nudge hlive, nudgeEngine_elsewhere helse]
  · rw [exec_clearFault hlive, clearLatch_set hset]
    rfl
  · rw [exec_clearFault hlive, clearLatch_clear hclear]

/-- Settles O16: in HALTED the tail is re-read from the state with the passed-over count cleared, which has the same
chain position; elsewhere the write is refused. -/
theorem resumeResult : Obligations.ResumeResult := by
  refine fun s hlive => ⟨fun hhalted => ?_, fun helse => ?_⟩
  · rw [exec_resume hlive, resumeEngine_halted hhalted, rereadTail_eq]
    rfl
  · rw [exec_resume hlive, resumeEngine_elsewhere helse]

end Sys2Proof.Machine
end

section
/-! What every step keeps (R7, R21, R51, R53, R55, R65, R149, R162, R163, R170, R174, R176): the well-formedness of the
fault unit, the port, the scene loader and the scan timing unit, each operation's part said once and one case split over
the commands. -/

namespace Sys2Proof.Machine

/-! ### One step -/

theorem step_front {c : Instr} {q : List Instr} {s : State} (h : s.pending = c :: q) :
    step s = exec c (s.withQueue q) := by
  rw [step, h]

theorem step_idle {s : State} (h : s.pending = []) : step s = .next (pixelPeriod s) := by
  rw [step, h]

theorem step_cases {s t : State} (h : step s = .next t) :
    (s.pending = [] ∧ t = pixelPeriod s) ∨ ∃ c q, s.pending = c :: q ∧ exec c (s.withQueue q) = .next t := by
  cases hp : s.pending with
  | nil => exact .inl ⟨rfl, (Host.Outcome.next.inj ((step_idle hp).symm.trans h)).symm⟩
  | cons c q => exact .inr ⟨c, q, rfl, (step_front hp).symm.trans h⟩

theorem scanning_eq_sends (s : State) : scanning s = s.scan.output.sends := rfl

theorem pixelPeriod_sent {t : Timing} {lp : LinePos} {s : State} (hr : s.resetHeld = false)
    (ho : s.scan.output.sends = true) (ht : s.scan.timing = some t) (hl : s.scan.line = some lp)
    (h : lp.period + 1 < t.b + t.w) :
    pixelPeriod s = { s with scan := { s.scan with line := some { lp with period := lp.period + 1 } } } := by
  simp [pixelPeriod, State.modScan, scanning_eq_sends, hr, ho, ht, hl, h]

theorem pixelPeriod_lasts {t : Timing} {lp : LinePos} {s : State} (ht : s.scan.timing = some t)
    (hl : s.scan.line = some lp) (h : t.b + t.w ≤ lp.period + 1) : pixelPeriod s = s := by
  simp [pixelPeriod, ht, hl, Nat.not_lt.mpr h]

theorem pixelPeriod_unsent {s : State} (h : s.resetHeld = true ∨ s.scan.output.sends = false) : pixelPeriod s = s := by
  unfold pixelPeriod
  split
  · rcases h with h | h <;> simp [scanning_eq_sends, h]
  · rfl

/-! ### What the latch point and the start of a line leave alone -/

/-- What every operation leaves alone but those of the port, the register window, the fault unit and the status
writer. -/
structure Calm (s t : State) : Prop where
  dirBase : t.regs.dirBase = s.regs.dirBase
  enable : t.regs.enable = s.regs.enable
  latch : t.fault.latch = s.fault.latch
  record : t.fault.record = s.fault.record
  later : t.fault.later = s.fault.later
  update : t.writer.update = s.writer.update
  resetHeld : t.resetHeld = s.resetHeld
  pending : t.pending = s.pending
  tags : t.port.reads.map Place.tag = s.port.reads.map Place.tag
  write : t.port.write = s.port.write
  epoch : t.port.epoch = s.port.epoch
  loader : LoaderWf s.loader → LoaderWf t.loader

theorem Mild.calm {s t : State} (h : Mild s t) : Calm s t :=
  ⟨h.dirBase, h.enable, h.latch, h.record, h.later, h.update, h.resetHeld, h.pending, h.tags, h.write, h.epoch, h.loader⟩

theorem Quiet.calm {s t : State} (h : Quiet s t) : Calm s t :=
  h.mild.calm

theorem Calm.refl (s : State) : Calm s s :=
  (Quiet.refl s).calm

theorem Calm.trans {s t u : State} (h : Calm s t) (k : Calm t u) : Calm s u :=
  ⟨k.dirBase.trans h.dirBase, k.enable.trans h.enable, k.latch.trans h.latch, k.record.trans h.record,
    k.later.trans h.later, k.update.trans h.update, k.resetHeld.trans h.resetHeld, k.pending.trans h.pending,
    k.tags.trans h.tags, k.write.trans h.write, k.epoch.trans h.epoch, fun e => k.loader (h.loader e)⟩

theorem modScan_calm (f : Scan → Scan) (s : State) : Calm s (s.modScan f) :=
  ⟨rfl, rfl, rfl, rfl, rfl, rfl, rfl, rfl, rfl, rfl, rfl, fun h => h⟩

theorem modFetch_calm (f : Fetch → Fetch) (s : State) : Calm s (s.modFetch f) :=
  ⟨rfl, rfl, rfl, rfl, rfl, rfl, rfl, rfl, rfl, rfl, rfl, fun h => h⟩

theorem latchRunning_calm (t : Timing) (lp : LinePos) (s : State) : Calm s (latchRunning t lp s) :=
  ((modScan_calm _ s).trans (modScan_calm _ _)).trans
    (((beginLoad_quiet _).trans (latchPaint_quiet _ _)).trans (askBlock_quiet _)).calm

theorem latchParking_calm (lp : LinePos) (s : State) : Calm s (latchParking lp s) :=
  (((modScan_calm _ s).trans (latchPaint_quiet _ _).calm).trans (modScan_calm _ _)).trans (enterParked_mild _).calm

theorem latch_calm (s : State) : Calm s (latch s) := by
  unfold latch
  split
  · split
    · split
      · exact latchRunning_calm _ _ s
      · exact latchParking_calm _ s
      all_goals exact .refl s
    · exact .refl s
  · exact .refl s

theorem endFetch_calm (s : State) : Calm s (endFetch s) := by
  have h (f : Fetch → Fetch) := (endBursts_quiet s).calm.trans (modFetch_calm f _)
  unfold endFetch
  dsimp only
  split
  · exact (h _).trans (raise_quiet _ _).calm
  · exact h _

theorem composeLine_calm (t : Timing) (n : Nat) (s : State) : Calm s (composeLine t n s) := by
  have h := (endFetch_calm s).trans (takeList_quiet _).calm
  unfold composeLine
  split
  · dsimp only
    split
    · exact h.trans (formLine_quiet _ _ _).calm
    · exact h
  · exact (modComp_quiet _ s).calm

theorem lineStart_calm (s : State) : Calm s (lineStart s) := by
  unfold lineStart
  split
  · split
    · exact (modScan_calm _ s).trans (composeLine_calm _ _ _)
    · exact .refl s
  · exact .refl s

theorem latchRunning_scan (t : Timing) (lp : LinePos) (s : State) :
    (latchRunning t lp s).scan = (decideMark t (advanceFrame lp s)).scan :=
  (((beginLoad_quiet _).trans (latchPaint_quiet true _)).trans (askBlock_quiet _)).scan

theorem latchParking_scan (lp : LinePos) (s : State) :
    (latchParking lp s).scan =
      { (advanceFrame lp s).scan with output := .parked, line := none, mark := none, fmk := false } :=
  congrArg (fun c : Scan => { c with output := .parked, line := none, mark := none, fmk := false })
    (latchPaint_quiet true (advanceFrame lp s)).scan

/-! ### The scan timing unit under an output request -/

/-- R63: the scan timing unit after an OFF request. -/
def offScan (c : Scan) : Scan :=
  if c.output = .off then c
  else
    { c with
      output := .off, origin := none, lockPhase := none, line := none, mark := none, fmk := false, timerOn := false }

/-- R54, R58, R59: the scan timing unit after a PARK request. -/
def parkScan (c : Scan) : Scan :=
  match c.output with
  | .off => { c with output := .parked }
  | .locking => { c with output := .parked, origin := none, lockPhase := none, timerOn := false }
  | .parked => c
  | .running => { c with output := .parking }
  | .parking => c

/-- R54, R55, R61: the scan timing unit after a RUN request. -/
def runScan (c : Scan) : Scan :=
  match c.output with
  | .off => { c with output := .locking, origin := some .off, lockPhase := some .reading, timerOn := false }
  | .locking => c
  | .parked => { c with output := .locking, origin := some .parked, lockPhase := some .reading, timerOn := false }
  | .running => c
  | .parking => { c with output := .running }

/-- The scan timing unit after an output request. -/
def outputScan (t : OutputTarget) (c : Scan) : Scan :=
  match t with
  | .off => offScan c
  | .park => parkScan c
  | .run => runScan c

theorem enterOff_scan (s : State) :
    (enterOff s).scan =
      { s.scan with
        output := .off, origin := none, lockPhase := none, line := none, mark := none, fmk := false, timerOn := false } := by
  have h : (enterOff s).scan = (scanOff (fetchOff (compOff (loaderOff s)))).scan :=
    (((askOffBlock_quiet _ _).trans (endFenceAtOff_quiet _)).trans (retestHold_quiet _)).scan
  have k : (fetchOff (compOff (loaderOff s))).scan = s.scan :=
    (((loaderOff_quiet s).trans (modComp_quiet _ _)).trans (fetchOff_quiet _)).scan
  rw [h, scanOff, modScan_scan, k]

theorem requestOff_on {s : State} (h : s.scan.output ≠ .off) : requestOff s = enterOff s := by
  unfold requestOff
  cases ho : s.scan.output with
  | off => exact absurd ho h
  | _ => rfl

theorem requestOff_off {s : State} (h : s.scan.output = .off) : requestOff s = s := by
  rw [requestOff, h]

theorem requestOff_scan (s : State) : (requestOff s).scan = offScan s.scan := by
  unfold offScan
  split
  · rw [requestOff_off ‹_›]
  · rw [requestOff_on ‹_›, enterOff_scan]

theorem requestPark_scan (s : State) : (requestPark s).scan = parkScan s.scan := by
  unfold requestPark parkScan
  cases s.scan.output <;> rfl

theorem requestRun_scan (s : State) : (requestRun s).scan = runScan s.scan := by
  unfold requestRun runScan
  cases s.scan.output <;> rfl

theorem requestOutput_scan (t : OutputTarget) (s : State) : (requestOutput t s).scan = outputScan t s.scan := by
  cases t with
  | off => exact requestOff_scan s
  | park => exact requestPark_scan s
  | run => exact requestRun_scan s

theorem requestPaint_quiet (p : Bool) (s : State) : Quiet s (requestPaint p s) := by
  unfold requestPaint
  split
  · exact paintOn_quiet s
  · exact paintOff_quiet s

theorem presentRun_scan (b : Bool) (t : OutputTarget) (p : Bool) (s : State) :
    (presentRun b t p s).scan = outputScan t s.scan := by
  unfold presentRun
  split
  · exact (requestPaint_quiet p _).scan.trans (requestOutput_scan t s)
  · rw [requestOutput_scan, (requestPaint_quiet p s).scan]

theorem acceptRun_scan (t : OutputTarget) (p : Bool) (m : FaultMode) (s : State) :
    (acceptRun t p m s).scan = outputScan t s.scan :=
  presentRun_scan _ t p (setRun t p m s)

/-! ### The scan timing unit well formed -/

theorem ScanWf.unsent {c : Scan} (w : ScanWf c) (h : c.output.sends = false) :
    c.line = none ∧ c.mark = none ∧ c.fmk = false :=
  ⟨by simpa [h] using w.line, w.mark h⟩

theorem ScanWf.unlocked {c : Scan} (w : ScanWf c) (h : c.output ≠ .locking) :
    c.origin = none ∧ c.lockPhase = none ∧ c.timerOn = false := by
  have hn : (c.output == .locking) = false := beq_eq_false_iff_ne.mpr h
  have hp : c.lockPhase = none := by simpa [hn] using w.lockPhase
  exact ⟨by simpa [hn] using w.origin, hp, by simpa [hp] using w.timer⟩

/-- The unit in OFF or PARKED keeps nothing but a legal timing. -/
theorem ScanWf.of_still {c : Scan} (ho : c.output = .off ∨ c.output = .parked)
    (hlock : c.origin = none ∧ c.lockPhase = none ∧ c.timerOn = false)
    (hline : c.line = none ∧ c.mark = none ∧ c.fmk = false) (legal : ∀ t, c.timing = some t → t.legal = true) :
    ScanWf c := by
  obtain ⟨hor, hph, htm⟩ := hlock
  obtain ⟨hli, hma, hfm⟩ := hline
  refine ⟨?_, ?_, ?_, ?_, fun _ => ⟨hma, hfm⟩, ?_, legal, fun t lp _ k => by simp [hli] at k⟩ <;>
    rcases ho with ho | ho <;> simp [ho, hor, hph, htm, hli, OutputState.sends]

/-- The unit in LOCKING, in the phase of the timing read. -/
theorem ScanWf.of_reading {c : Scan} (ho : c.output = .locking) (hlock : c.origin.isSome = true ∧
    c.lockPhase = some .reading ∧ c.timerOn = false) (hline : c.line = none ∧ c.mark = none ∧ c.fmk = false)
    (legal : ∀ t, c.timing = some t → t.legal = true) : ScanWf c := by
  obtain ⟨hor, hph, htm⟩ := hlock
  obtain ⟨hli, hma, hfm⟩ := hline
  refine ⟨?_, ?_, ?_, ?_, fun _ => ⟨hma, hfm⟩, ?_, legal, fun t lp _ k => by simp [hli] at k⟩ <;>
    simp [ho, hor, hph, htm, hli, OutputState.sends]

/-- The unit while a frame is sent. -/
theorem ScanWf.of_sent {c : Scan} {t : Timing} {lp : LinePos} (ho : c.output.sends = true)
    (hlock : c.origin = none ∧ c.lockPhase = none ∧ c.timerOn = false) (ht : c.timing = some t) (hl : c.line = some lp)
    (legal : t.legal = true) (inside : lp.line < t.h + t.v ∧ lp.period < t.b + t.w) : ScanWf c := by
  obtain ⟨hor, hph, htm⟩ := hlock
  have hn : c.output ≠ .locking := fun e => by simp [e, OutputState.sends] at ho
  refine ⟨by simp [hor, hn], by simp [hph, hn], by simp [hph, htm], by simp [hl, ho], fun e => by simp [e] at ho,
    fun _ => by simp [ht], fun t' e => ?_, fun t' lp' e k => ?_⟩
  · rw [ht] at e
    exact Option.some.inj e ▸ legal
  · rw [ht] at e
    rw [hl] at k
    exact Option.some.inj e ▸ Option.some.inj k ▸ inside

theorem ScanWf.sent {c : Scan} (w : ScanWf c) (h : c.output.sends = true) :
    ∃ t lp, c.timing = some t ∧ c.line = some lp := by
  have hl : c.line.isSome = true := w.line.trans h
  obtain ⟨t, ht⟩ := Option.isSome_iff_exists.mp (w.timed (.inl h))
  obtain ⟨lp, hlp⟩ := Option.isSome_iff_exists.mp hl
  exact ⟨t, lp, ht, hlp⟩

theorem offScan_wf {c : Scan} (w : ScanWf c) : ScanWf (offScan c) := by
  unfold offScan
  split
  · exact w
  · exact .of_still (.inl rfl) ⟨rfl, rfl, rfl⟩ ⟨rfl, rfl, rfl⟩ w.legal

/-- RUNNING and PARKING differ in the output state alone. -/
theorem ScanWf.exchange {c : Scan} (w : ScanWf c) (h : c.output.sends = true) {o : OutputState} (ho : o.sends = true) :
    ScanWf { c with output := o } := by
  obtain ⟨t, lp, ht, hl⟩ := w.sent h
  have hn : c.output ≠ .locking := fun e => by simp [e, OutputState.sends] at h
  exact .of_sent ho (w.unlocked hn) ht hl (w.legal t ht) (w.inside t lp ht hl)

theorem parkScan_wf {c : Scan} (w : ScanWf c) : ScanWf (parkScan c) := by
  unfold parkScan
  split
  case h_1 ho => exact .of_still (.inr rfl) (w.unlocked (by simp [ho])) (w.unsent (by simp [ho, OutputState.sends])) w.legal
  case h_2 ho => exact .of_still (.inr rfl) ⟨rfl, rfl, rfl⟩ (w.unsent (by simp [ho, OutputState.sends])) w.legal
  case h_3 => exact w
  case h_4 ho => exact w.exchange (by simp [ho, OutputState.sends]) rfl
  case h_5 => exact w

theorem runScan_wf {c : Scan} (w : ScanWf c) : ScanWf (runScan c) := by
  unfold runScan
  split
  case h_1 ho => exact .of_reading rfl ⟨rfl, rfl, rfl⟩ (w.unsent (by simp [ho, OutputState.sends])) w.legal
  case h_2 => exact w
  case h_3 ho => exact .of_reading rfl ⟨rfl, rfl, rfl⟩ (w.unsent (by simp [ho, OutputState.sends])) w.legal
  case h_4 => exact w
  case h_5 ho => exact w.exchange (by simp [ho, OutputState.sends]) rfl

theorem outputScan_wf {c : Scan} (t : OutputTarget) (w : ScanWf c) : ScanWf (outputScan t c) := by
  cases t with
  | off => exact offScan_wf w
  | park => exact parkScan_wf w
  | run => exact runScan_wf w

theorem outputScan_off_output (c : Scan) : (outputScan .off c).output = .off := by
  simp only [outputScan, offScan]
  split
  · assumption
  · rfl

/-! ### The scan timing unit's operations and DIR_BASE -/

/-- The scan timing unit stays well formed, and DIR_BASE what the output state asks of it. -/
def KeepsTiming (s t : State) : Prop :=
  ScanWf s.scan ∧ RegsWf s → ScanWf t.scan ∧ RegsWf t

theorem KeepsTiming.refl (s : State) : KeepsTiming s s :=
  fun h => h

theorem KeepsTiming.of_eq {s t : State} (h : t.scan = s.scan) (k : t.regs.dirBase = s.regs.dirBase) :
    KeepsTiming s t := by
  unfold KeepsTiming RegsWf
  rw [h, k]
  exact id

theorem Quiet.timing {s t : State} (h : Quiet s t) : KeepsTiming s t :=
  .of_eq h.scan h.dirBase

/-- A change within the output states other than OFF, or into OFF or PARKED from one of them. -/
theorem KeepsTiming.of_on {s t : State} (k : t.regs.dirBase = s.regs.dirBase) (ho : s.scan.output ≠ .off)
    (h : ScanWf s.scan → ScanWf t.scan) : KeepsTiming s t := by
  rintro ⟨w, aligned, nonzero⟩
  exact ⟨h w, by rw [k]; exact aligned, fun _ => by rw [k]; exact nonzero ho⟩

theorem failEntry_timing {s : State} (c : Code) (a : Word) (ho : s.scan.output = .locking) :
    KeepsTiming s (failEntry c a s) := by
  refine .of_on (failEntry_mild c a s).dirBase (by simp [ho]) fun w => ?_
  unfold failEntry
  split
  · exact w
  · rename_i o _
    refine .of_still ?_ ⟨rfl, rfl, rfl⟩ (w.unsent (by simp [ho, OutputState.sends])) w.legal
    cases o
    · exact .inl rfl
    · exact .inr rfl

theorem lockExpires_timing (s : State) : KeepsTiming s (lockExpires s) := by
  unfold lockExpires
  split
  · rename_i h
    exact failEntry_timing _ _ h.1
  · exact .refl s

theorem acceptTiming_timing {t : Timing} {s : State} (ho : s.scan.output = .locking) (ht : t.legal = true) :
    KeepsTiming s (acceptTiming t s) := by
  refine .of_on rfl (by simp [ho]) fun w => ?_
  obtain ⟨hline, hmark, hfmk⟩ := w.unsent (by simp [ho, OutputState.sends])
  refine ⟨w.origin, ?_, rfl, w.line, w.mark, fun _ => rfl, fun t' e => Option.some.inj e ▸ ht, fun t' lp _ k => ?_⟩
  · simp [acceptTiming, ho]
  · simp [acceptTiming, hline] at k

theorem answerTiming_timing (b : Burst) (a : Answer) (s : State) : KeepsTiming s (answerTiming b a s) := by
  unfold answerTiming
  split
  · rename_i h
    split
    · exact failEntry_timing _ _ h.1
    · split
      · exact acceptTiming_timing h.1 ‹_›
      · exact failEntry_timing _ _ h.1
  · exact .refl s

/-- R51: the bounds of a legal record that place a line position inside its frame. -/
theorem Timing.legal_bounds {t : Timing} (h : t.legal = true) : 0 < t.h ∧ 0 < t.v ∧ 0 < t.b + t.w := by
  simp only [Timing.legal, Bool.and_eq_true, decide_eq_true_eq] at h
  omega

theorem enterRunning_scan (t : Timing) (s : State) :
    (enterRunning t s).scan =
      { s.scan with
        output := .running, origin := none, lockPhase := none, timerOn := false,
        line := some { line := t.h, period := 0, latchDue := false, openDue := t.v == 1 } } :=
  ((beginLoad_quiet _).trans (latchPaint_quiet false _)).scan

theorem lockTaken_timing (c : Bool) (s : State) : KeepsTiming s (lockTaken c s) := by
  unfold lockTaken
  split
  · rename_i h
    split
    · exact .refl s
    · rename_i t ht
      refine .of_on (enterRunning_mild t s).dirBase (by simp [h.2.1]) fun w => ?_
      obtain ⟨_, hv, hp⟩ := Timing.legal_bounds (w.legal t ht)
      rw [enterRunning_scan]
      exact .of_sent rfl ⟨rfl, rfl, rfl⟩ ht rfl (w.legal t ht) ⟨Nat.lt_add_of_pos_right hv, hp⟩
  · exact .refl s

theorem openFrame_scan (t : Timing) (lp : LinePos) (s : State) :
    (openFrame t lp s).scan = { s.scan with line := some { lp with openDue := false } } := by
  unfold openFrame
  split
  · rename_i st e
    exact (((((takeOver_quiet (s := openTaken lp s) e).trans (clearFlags_quiet _)).trans (formLine_quiet t.w 0 _)).trans
      (testFence_quiet _)).trans (retestHold_quiet _)).scan
  · exact (((runOn_quiet (openTaken lp s)).trans (clearFlags_quiet _)).trans (formLine_quiet t.w 0 _)).scan

/-- A scan that sends a frame goes on at a line position inside it. -/
theorem KeepsTiming.of_moved {s u : State} {t : Timing} {lp : LinePos} (k : u.regs.dirBase = s.regs.dirBase)
    (hs : s.scan.output.sends = true) (hu : u.scan.output.sends = true)
    (hlock : (u.scan.origin, u.scan.lockPhase, u.scan.timerOn) = (s.scan.origin, s.scan.lockPhase, s.scan.timerOn))
    (hts : s.scan.timing = some t) (ht : u.scan.timing = s.scan.timing) (hl : u.scan.line = some lp)
    (inside : ScanWf s.scan → lp.line < t.h + t.v ∧ lp.period < t.b + t.w) : KeepsTiming s u := by
  refine .of_on k (fun e => by simp [e, OutputState.sends] at hs) fun w => ?_
  obtain ⟨h1, h2, h3⟩ := w.unlocked fun e => by simp [e, OutputState.sends] at hs
  simp only [h1, h2, h3, Prod.mk.injEq] at hlock
  exact .of_sent hu hlock (ht.trans hts) hl (w.legal t hts) (inside w)

theorem frameOpens_timing (s : State) : KeepsTiming s (frameOpens s) := by
  unfold frameOpens
  split
  · rename_i t lp ht hl
    split
    · rename_i h
      have hs : s.scan.output.sends = true := by
        simp only [scanning_eq_sends, Bool.and_eq_true] at h
        exact h.1.1
      have e := openFrame_scan t lp s
      exact .of_moved (lp := { lp with openDue := false }) (openFrame_mild t lp s).dirBase hs (by rw [e]; exact hs)
        (by rw [e]) ht (by rw [e]) (by rw [e]) fun w => w.inside t lp ht hl
    · exact .refl s
  · exact .refl s

theorem pulseMark_timing (s : State) : KeepsTiming s (pulseMark s) := by
  unfold pulseMark
  split
  · rename_i h
    have hs : s.scan.output.sends = true := by
      simp only [scanning_eq_sends, Bool.and_eq_true] at h
      exact h.1
    refine .of_on rfl (fun e => by simp [e, OutputState.sends] at hs) fun w => ?_
    obtain ⟨t, lp, ht, hl⟩ := w.sent hs
    exact .of_sent hs (w.unlocked fun e => by simp [e, OutputState.sends] at hs) ht hl (w.legal t ht)
      (w.inside t lp ht hl)
  · exact .refl s

theorem pixelPeriod_timing (s : State) : KeepsTiming s (pixelPeriod s) := by
  unfold pixelPeriod
  split
  · rename_i t lp ht hl
    split
    · rename_i h
      simp only [scanning_eq_sends, Bool.and_eq_true, decide_eq_true_eq] at h
      obtain ⟨⟨hs, hp⟩, _⟩ := h
      exact .of_moved rfl hs hs rfl ht rfl rfl fun w => ⟨(w.inside t lp ht hl).1, hp⟩
    · exact .refl s
  · exact .refl s

theorem nextLine_lt {t : Timing} (n : Nat) (h : 0 < t.h) : nextLine t n < t.h + t.v := by
  unfold nextLine
  split <;> omega

theorem lineStart_timing (s : State) : KeepsTiming s (lineStart s) := by
  unfold lineStart
  split
  · rename_i t lp ht hl
    split
    · rename_i h
      simp only [scanning_eq_sends, Bool.and_eq_true] at h
      obtain ⟨e, -⟩ := composeLine_frame t (nextLine t lp.line) (scanLine t (nextLine t lp.line) s)
      have d : (composeLine t (nextLine t lp.line) (scanLine t (nextLine t lp.line) s)).regs.dirBase = s.regs.dirBase :=
        (composeLine_calm _ _ _).dirBase
      refine .of_moved d h.1 (by rw [e]; exact h.1) (by rw [e]; rfl) ht (by rw [e]; rfl) (by rw [e]; rfl) fun w => ?_
      obtain ⟨hh, _, hp⟩ := Timing.legal_bounds (w.legal t ht)
      exact ⟨nextLine_lt _ hh, hp⟩
    · exact .refl s
  · exact .refl s

theorem decideMark_scan (t : Timing) (s : State) :
    (decideMark t s).scan =
      { s.scan with
        mark := if t.markDiv ≠ 0 ∧ s.scan.frameCounter.toNat % t.markDiv = 0 then some t.markDelay else s.scan.mark } := by
  simp only [decideMark, modScan_scan]
  split <;> rfl

theorem latch_timing (s : State) : KeepsTiming s (latch s) := by
  have d := (latch_calm s).dirBase
  revert d
  unfold latch
  split
  · rename_i t lp ht hl
    split
    · split
      case h_1 ho =>
        intro d
        have e := (latchRunning_scan t lp s).trans (decideMark_scan t _)
        have hs : s.scan.output.sends = true := by rw [ho]; rfl
        exact .of_moved (lp := { lp with latchDue := false }) d hs (by rw [e]; exact hs) (by rw [e]; rfl) ht
          (by rw [e]; rfl) (by rw [e]; rfl) fun w => w.inside t lp ht hl
      case h_2 ho =>
        intro d
        refine .of_on d (by simp [ho]) fun w => ?_
        rw [latchParking_scan]
        exact .of_still (.inr rfl) (w.unlocked (by simp [ho])) ⟨rfl, rfl, rfl⟩ w.legal
      all_goals exact fun _ => .refl s
    · exact fun _ => .refl s
  · exact fun _ => .refl s

/-! ### The port well formed -/

theorem PortWf.of_tags {p q : Port} (h : q.reads.map Place.tag = p.reads.map Place.tag) (k : q.write = p.write)
    (e : q.epoch = p.epoch) (w : PortWf p) : PortWf q := by
  have len : q.reads.length = p.reads.length := by simpa using congrArg List.length h
  exact ⟨len ▸ w.reads, h ▸ w.distinct, by rw [h, e]; exact w.low, by rw [k, e]; exact w.write⟩

theorem PortWf.free {p : Port} (tag : Nat) (w : PortWf p) : PortWf (p.free tag) := by
  have sub : ((p.free tag).reads.map Place.tag).Sublist (p.reads.map Place.tag) := List.filter_sublist.map _
  refine ⟨(List.length_filter_le _ _).trans w.reads, w.distinct.sublist sub, fun t ht => w.low t (sub.subset ht), ?_⟩
  intro pl hpl
  exact w.write pl (Option.mem_filter_iff.mp hpl).1

/-- While fewer than eight reads are outstanding, a read granted now takes a tag that none of them has (log entry 8). -/
theorem freshTag_spec {p : Port} (h : p.reads.length < 8) :
    ∃ n < 8, p.freshTag = readTag p.epoch n ∧ readTag p.epoch n ∉ p.reads.map Place.tag := by
  unfold Port.freshTag
  cases hf : (List.range 8).find? fun n => !p.reads.any fun pl => pl.tag == readTag p.epoch n with
  | some n =>
    refine ⟨n, List.mem_range.mp (List.mem_of_find?_eq_some hf), rfl, fun hm => ?_⟩
    obtain ⟨pl, hpl, e⟩ := List.mem_map.mp hm
    have := List.find?_some hf
    simp only [Bool.not_eq_true', List.any_eq_false, beq_iff_eq] at this
    exact this pl hpl e
  | none =>
    have sub : (List.range 8).map (readTag p.epoch) ⊆ p.reads.map Place.tag := by
      intro t ht
      obtain ⟨n, hn, rfl⟩ := List.mem_map.mp ht
      have := List.find?_eq_none.mp hf n hn
      simp only [Bool.not_eq_true', Bool.not_eq_false, List.any_eq_true, beq_iff_eq] at this
      obtain ⟨pl, hpl, e⟩ := this
      exact List.mem_map.mpr ⟨pl, hpl, e⟩
    have nodup : ((List.range 8).map (readTag p.epoch)).Nodup :=
      List.nodup_range.map fun a b e => by simpa [readTag] using e
    have := (List.subperm_of_subset nodup sub).length_le
    simp only [List.length_map, List.length_range] at this
    omega

theorem PortWf.occupy {p : Port} {b : Burst} (w : PortWf p) (g : p.grantable b = true) : PortWf (p.occupy b) := by
  unfold Port.occupy
  split
  · exact ⟨w.reads, w.distinct, w.low, fun pl hpl => by obtain rfl := Option.some.inj hpl; rfl⟩
  · rename_i hw
    have room : p.reads.length < 8 := by simpa [Port.grantable, hw] using g
    obtain ⟨n, hn, e, fresh⟩ := freshTag_spec room
    refine ⟨by simpa using room, ?_, ?_, w.write⟩
    · simp only [List.map_append, List.map_cons, List.map_nil, e]
      exact List.nodup_append.mpr ⟨w.distinct, List.nodup_singleton _, by
        rintro a ha b hb rfl
        exact fresh (List.mem_singleton.mp hb ▸ ha)⟩
    · simp only [List.map_append, List.map_cons, List.map_nil, e, List.mem_append, List.mem_singleton]
      rintro t (ht | rfl)
      · exact w.low t ht
      · simp only [readTag, writeTag]
        omega

theorem winner_grantable {p : Port} {q : Requester} {b : Burst} (h : p.winner = some (q, b)) : p.grantable b = true := by
  obtain ⟨q', _, hq⟩ := List.exists_of_findSome?_eq_some h
  split at hq
  · split at hq
    · cases hq
      assumption
    · cases hq
  · cases hq

/-! ### What keeps every block well formed -/

/-- The fault unit, the port, the scene loader and the scan timing unit stay well formed. -/
structure KeepsWf (s t : State) : Prop where
  fault : FaultWf s.fault → FaultWf t.fault
  port : PortWf s.port → PortWf t.port
  epoch : s.port.epoch ≤ t.port.epoch
  loader : LoaderWf s.loader → LoaderWf t.loader
  timing : KeepsTiming s t

theorem KeepsWf.refl (s : State) : KeepsWf s s :=
  ⟨id, id, le_rfl, id, .refl s⟩

theorem KeepsWf.trans {s t u : State} (h : KeepsWf s t) (k : KeepsWf t u) : KeepsWf s u :=
  ⟨fun e => k.fault (h.fault e), fun e => k.port (h.port e), h.epoch.trans k.epoch, fun e => k.loader (h.loader e),
    fun e => k.timing (h.timing e)⟩

theorem Calm.keepsWf {s t : State} (h : Calm s t) (k : KeepsTiming s t) : KeepsWf s t :=
  ⟨fun e => by unfold FaultWf; rw [h.latch, h.later]; exact e, .of_tags h.tags h.write h.epoch, h.epoch.ge, h.loader, k⟩

theorem Mild.keepsWf {s t : State} (h : Mild s t) (k : KeepsTiming s t) : KeepsWf s t :=
  h.calm.keepsWf k

theorem Quiet.keepsWf {s t : State} (h : Quiet s t) : KeepsWf s t :=
  h.mild.keepsWf h.timing

theorem modPort_keepsWf {f : Port → Port} {s : State} (h : PortWf s.port → PortWf (f s.port))
    (e : (f s.port).epoch = s.port.epoch) : KeepsWf s (s.modPort f) :=
  ⟨id, h, e.ge, id, .of_eq rfl rfl⟩

theorem free_keepsWf (tag : Nat) (s : State) : KeepsWf s (s.modPort (Port.free tag)) :=
  modPort_keepsWf (PortWf.free tag) rfl

theorem modWriter_keepsWf (f : Writer → Writer) (s : State) : KeepsWf s (s.modWriter f) :=
  ⟨id, id, le_rfl, id, .of_eq rfl rfl⟩

theorem issueStatus_keepsWf (bs : List Burst) (s : State) : KeepsWf s (issueStatus bs s) :=
  modPort_keepsWf (.of_tags rfl rfl rfl) rfl

theorem live_keepsWf {f : State → State} {s t : State} (h : live f s = .next t) (k : KeepsWf s (f s)) : KeepsWf s t := by
  rcases live_cases h with ⟨_, rfl⟩ | ⟨_, rfl⟩
  · exact .refl _
  · exact k

theorem respond_keepsWf {k : BurstKind → Bool} {tag : Nat} {r : Response} {f : Burst → Answer → State → State}
    (h : ∀ b a u, KeepsWf u (f b a u)) (s : State) : KeepsWf s (respond k tag r f s) := by
  rcases respond_cases k tag r f s with e | e | ⟨b, a, e⟩ <;> rw [e]
  · exact .refl s
  · exact free_keepsWf tag s
  · exact (free_keepsWf tag s).trans (h b a _)

theorem answerTiming_keepsWf (b : Burst) (a : Answer) (s : State) : KeepsWf s (answerTiming b a s) :=
  (answerTiming_mild b a s).keepsWf (answerTiming_timing b a s)

theorem answerBurst_keepsWf (b : Burst) (a : Answer) (s : State) : KeepsWf s (answerBurst b a s) := by
  refine (answerBurst_mild b a s).keepsWf ?_
  unfold answerBurst
  split
  · exact answerTiming_timing b a s
  · exact (answerDescriptor_quiet b a s).timing
  · exact (answerBody_quiet b a s).timing
  · exact (answerSlotWrite_quiet b a s).timing
  · exact (answerSpan_quiet b a s).timing
  · exact (answerHeadPointer_quiet b a s).timing
  · exact (answerOrderHead_quiet b a s).timing
  · exact (answerRemainder_quiet b a s).timing
  · exact (answerLink_quiet b a s).timing
  · exact (answerTail_quiet b a s).timing
  · exact (answerActive_quiet b a s).timing
  · exact (answerCopyRead_quiet b a s).timing
  · exact (answerPixel_quiet b a s).timing
  · exact (answerStamp_quiet b a s).timing
  · exact (answerFinal_quiet b a s).timing
  · exact (answerStatus_quiet b a s).timing

theorem pop_places (q : Requester) (p : Port) :
    (p.pop q).reads = p.reads ∧ (p.pop q).write = p.write ∧ (p.pop q).epoch = p.epoch := by
  cases q <;> exact ⟨rfl, rfl, rfl⟩

/-- The winner's burst leaves its requester, and the loader's place settles: no place changes. -/
theorem popped_quiet (q : Requester) (s : State) : Quiet s (settleLoader (s.modPort (Port.pop q))) := by
  obtain ⟨hr, hw, he⟩ := pop_places q s.port
  exact (modPort_quiet (by rw [hr]) hw he).trans (settleLoader_quiet _)

theorem settleLoader_reads (s : State) : (settleLoader s).port.reads = s.port.reads := by
  rw [settleLoader_spec]

theorem grant_keepsWf (s : State) : KeepsWf s (grant s) := by
  unfold grant
  split
  · exact .refl s
  · rename_i q b hw
    have h := (popped_quiet q s).keepsWf
    have g : (settleLoader (s.modPort (Port.pop q))).port.grantable b = true := by
      unfold Port.grantable
      rw [(popped_quiet q s).write, settleLoader_reads, modPort_port, (pop_places q s.port).1]
      exact winner_grantable hw
    unfold runGranted
    split
    · split
      · exact h
      · exact h.trans (answerBurst_keepsWf _ _ _)
    · refine h.trans (modPort_keepsWf (fun w => w.occupy g) ?_)
      unfold Port.occupy
      split <;> rfl

theorem takeAbandoned_keepsWf (tag : Nat) (s : State) : KeepsWf s (takeAbandoned tag s) := by
  unfold takeAbandoned
  split
  · exact free_keepsWf tag s
  · exact .refl s

/-! ### The register window and the resets -/

theorem runNeedsBase_false {t : OutputTarget} {p : Bool} {s : State} (h : runNeedsBase t p s = false) :
    RunAllowed t p s := by
  unfold RunAllowed
  by_cases hd : s.regs.dirBase = 0
  · refine .inr ?_
    simpa [runNeedsBase, hd] using h
  · exact .inl hd

theorem acceptRun_timing {t : OutputTarget} {p : Bool} {m : FaultMode} {s : State} (h : RunAllowed t p s) :
    KeepsTiming s (acceptRun t p m s) := by
  rintro ⟨w, aligned, _⟩
  have d : (acceptRun t p m s).regs.dirBase = s.regs.dirBase := (acceptRun_plain t p m s).dirBase
  unfold RegsWf
  rw [acceptRun_scan, d]
  refine ⟨outputScan_wf t w, aligned, fun ho => ?_⟩
  obtain h | ⟨rfl, _⟩ := h
  · exact h
  · exact absurd (outputScan_off_output s.scan) ho

theorem acceptRun_keepsWf {t : OutputTarget} {p : Bool} {m : FaultMode} {s : State} (h : RunAllowed t p s) :
    KeepsWf s (acceptRun t p m s) := by
  have k := presentRun_mild (Config.runOutputFirst s.freeIdx) t p (setRun t p m s)
  have e := acceptRun_plain t p m s
  refine ⟨fun w => ?_, .of_tags k.tags k.write k.epoch, k.epoch.ge, e.loader, acceptRun_timing h⟩
  unfold FaultWf
  rw [e.latch, e.later]
  exact w

theorem writeRun_keepsWf (v : Word) (s : State) : KeepsWf s (writeRun v s) := by
  unfold writeRun
  split
  · exact (raise_quiet _ s).keepsWf
  · split
    · exact (raise_quiet _ s).keepsWf
    · exact acceptRun_keepsWf (runNeedsBase_false (Bool.eq_false_iff.mpr ‹_›))

theorem writeDirBase_keepsWf (v : Word) (s : State) : KeepsWf s (writeDirBase v s) := by
  unfold writeDirBase
  split
  · rename_i h
    simp only [dirBaseAccepted, Bool.and_eq_true, beq_iff_eq] at h
    obtain ⟨⟨ho, _⟩, aligned⟩ := h
    exact ⟨id, id, le_rfl, id, fun w => ⟨w.1, aligned, fun hn => absurd ho hn⟩⟩
  · exact (raise_quiet _ s).keepsWf

theorem clearLatch_keepsWf (s : State) : KeepsWf s (clearLatch s) := by
  cases h : s.fault.latch with
  | false => rw [clearLatch_clear h]; exact .refl s
  | true =>
    rw [clearLatch_set h]
    exact ⟨fun _ => ⟨fun _ => rfl, Nat.zero_le _⟩, id, le_rfl, id, .of_eq rfl rfl⟩

theorem faultWf_reset : FaultWf FaultUnit.reset :=
  ⟨fun _ => rfl, Nat.zero_le _⟩

theorem scanWf_reset : ScanWf Scan.reset :=
  .of_still (.inl rfl) ⟨rfl, rfl, rfl⟩ ⟨rfl, rfl, rfl⟩ (by simp [Scan.reset])

theorem tableFits_nil : TableFits [] :=
  ⟨Nat.zero_le _, fun _ => Nat.zero_le _, fun _ => Nat.zero_le _⟩

theorem loaderWf_reset : LoaderWf Loader.reset where
  shownFits := tableFits_nil
  stagedFits := tableFits_nil
  view := rfl
  stagedNone _ := rfl
  shownNone _ := ⟨rfl, rfl⟩
  frames := Nat.zero_le _
  minShown := ⟨le_rfl, by decide⟩
  minStaged st h := by simp [Loader.reset] at h
  notShown _ := ⟨rfl, rfl⟩
  idle _ := rfl

theorem portWf_empty (e : Nat) :
    PortWf { fetch := [], loader := [], status := [], paint := [], reads := [], write := none, epoch := e } :=
  ⟨Nat.zero_le _, List.nodup_nil, by simp, by simp⟩

theorem PortWf.softReset {p : Port} (w : PortWf p) : PortWf p.softReset := by
  have tags : p.softReset.reads.map Place.tag = p.reads.map Place.tag := List.map_map
  refine ⟨by simpa [Port.softReset] using w.reads, tags ▸ w.distinct, by rw [tags]; exact w.low, fun pl hpl => ?_⟩
  obtain ⟨q, hq, rfl⟩ := Option.map_eq_some_iff.mp hpl
  exact w.write q hq

theorem resetSoft_keepsWf (s : State) : KeepsWf s (resetSoft s) :=
  ⟨fun _ => faultWf_reset, PortWf.softReset, le_rfl, fun _ => loaderWf_reset,
    fun w => ⟨scanWf_reset, w.2.1, fun h => absurd rfl h⟩⟩

theorem resetHard_keepsWf (s : State) : KeepsWf s (resetHard s) :=
  ⟨fun _ => faultWf_reset, fun _ => portWf_empty _, Nat.le_succ _, fun _ => loaderWf_reset,
    fun _ => ⟨scanWf_reset, rfl, fun h => absurd rfl h⟩⟩

theorem writeAction_keepsWf (v : Word) (s : State) : KeepsWf s (writeAction v s) := by
  unfold writeAction
  split
  · exact (nudgeEngine_quiet s).keepsWf
  · exact clearLatch_keepsWf s
  · exact (resumeEngine_quiet s).keepsWf
  · exact resetSoft_keepsWf s
  · exact (raise_quiet _ s).keepsWf

theorem hostWrite_keepsWf (o v : Word) (s : State) : KeepsWf s (hostWrite o v s) := by
  unfold hostWrite
  split
  · exact writeDirBase_keepsWf v s
  · exact writeRun_keepsWf v s
  · exact writeAction_keepsWf v s
  · exact ⟨id, id, le_rfl, id, .of_eq rfl rfl⟩
  · exact ⟨id, id, le_rfl, id, .of_eq rfl rfl⟩
  · exact .refl s

/-! ### The fault unit and the status writer -/

theorem countReport_keepsWf {s : State} (h : s.fault.latch = true) : KeepsWf s (countReport s) := by
  unfold countReport
  split
  · rename_i hl
    refine ⟨fun _ => ⟨fun e => ?_, hl⟩, id, le_rfl, id, .of_eq rfl rfl⟩
    exact absurd (h.symm.trans e) Bool.noConfusion
  · exact .refl s

theorem latchReport_keepsWf (r : Report) (s : State) : KeepsWf s (latchReport r s) :=
  ⟨fun _ => ⟨fun _ => rfl, Nat.zero_le _⟩, id, le_rfl, id, .of_eq rfl rfl⟩

theorem takeReport_keepsWf (source : Source) (s : State) : KeepsWf s (takeReport source s) := by
  unfold takeReport
  split
  · exact .refl s
  · have h : KeepsWf s (s.modFault fun f => { f with reports := f.reports.eraseP fun r => r.source == source }) :=
      ⟨id, id, le_rfl, id, .of_eq rfl rfl⟩
    dsimp only
    split
    · exact h.trans (countReport_keepsWf ‹_›)
    · exact h.trans (latchReport_keepsWf _ _)

theorem beginBlock_keepsWf (s : State) : KeepsWf s (beginBlock s) := by
  unfold beginBlock
  split
  · exact (modWriter_keepsWf _ s).trans (issueStatus_keepsWf _ _)
  · exact .refl s

theorem beginRecord_keepsWf (s : State) : KeepsWf s (beginRecord s) := by
  unfold beginRecord
  split
  · exact (modWriter_keepsWf _ s).trans (issueStatus_keepsWf _ _)
  · exact .refl s

theorem beginCount_keepsWf (s : State) : KeepsWf s (beginCount s) := by
  unfold beginCount
  split
  · exact (modWriter_keepsWf _ s).trans (issueStatus_keepsWf _ _)
  · exact .refl s

/-! ### Every step -/

/-- Every command keeps every block well formed, ill-formed commands included. -/
theorem exec_keepsWf {c : Instr} {s t : State} (h : exec c s = .next t) : KeepsWf s t := by
  cases c with
  | dirBaseWrite | outputOff | outputPark | outputRun | paintSet | paintClear | faultModeWrite | nudge | clearFault
  | resume | softReset | eventsWrite | eventEnableWrite | registerWriteOther =>
    exact live_keepsWf h (hostWrite_keepsWf _ _ s)
  | powerOnReset => exact Host.Outcome.next.inj h ▸ resetHard_keepsWf s
  | resetNRelease => exact Host.Outcome.next.inj h ▸ ⟨id, id, le_rfl, id, .of_eq rfl rfl⟩
  | lockEvent => exact live_keepsWf h ((lockTaken_mild _ s).keepsWf (lockTaken_timing _ s))
  | lockTimeout => exact live_keepsWf h ((lockExpires_mild s).keepsWf (lockExpires_timing s))
  | startOfLine => exact live_keepsWf h ((lineStart_calm s).keepsWf (lineStart_timing s))
  | latchPoint => exact live_keepsWf h ((latch_calm s).keepsWf (latch_timing s))
  | fenceTimedOut => exact live_keepsWf h (issueTimedOut_quiet s).keepsWf
  | frameOpen => exact live_keepsWf h ((frameOpens_mild s).keepsWf (frameOpens_timing s))
  | frameMark => exact live_keepsWf h ((pulseMark_mild s).keepsWf (pulseMark_timing s))
  | sceneChecksComplete => exact live_keepsWf h (completeChecks_quiet s).keepsWf
  | chainLoop => exact live_keepsWf h (loopHalt_quiet s).keepsWf
  | timingReadResponse => exact live_keepsWf h (respond_keepsWf answerTiming_keepsWf s)
  | descriptorReadResponse => exact live_keepsWf h (respond_keepsWf (fun b a u => (answerDescriptor_quiet b a u).keepsWf) s)
  | bodyBurstResponse => exact live_keepsWf h (respond_keepsWf (fun b a u => (answerBody_quiet b a u).keepsWf) s)
  | slotWriteResponse => exact live_keepsWf h (respond_keepsWf (fun b a u => (answerSlotWrite_quiet b a u).keepsWf) s)
  | spanBurstResponse => exact live_keepsWf h (respond_keepsWf (fun b a u => (answerSpan_quiet b a u).keepsWf) s)
  | headPointerReadResponse =>
    exact live_keepsWf h (respond_keepsWf (fun b a u => (answerHeadPointer_quiet b a u).keepsWf) s)
  | orderHeadReadResponse => exact live_keepsWf h (respond_keepsWf (fun b a u => (answerOrderHead_quiet b a u).keepsWf) s)
  | remainderReadResponse => exact live_keepsWf h (respond_keepsWf (fun b a u => (answerRemainder_quiet b a u).keepsWf) s)
  | linkReadResponse => exact live_keepsWf h (respond_keepsWf (fun b a u => (answerLink_quiet b a u).keepsWf) s)
  | tailRereadResponse => exact live_keepsWf h (respond_keepsWf (fun b a u => (answerTail_quiet b a u).keepsWf) s)
  | activeWriteResponse => exact live_keepsWf h (respond_keepsWf (fun b a u => (answerActive_quiet b a u).keepsWf) s)
  | copyReadResponse => exact live_keepsWf h (respond_keepsWf (fun b a u => (answerCopyRead_quiet b a u).keepsWf) s)
  | pixelWriteResponse => exact live_keepsWf h (respond_keepsWf (fun b a u => (answerPixel_quiet b a u).keepsWf) s)
  | stampWriteResponse => exact live_keepsWf h (respond_keepsWf (fun b a u => (answerStamp_quiet b a u).keepsWf) s)
  | finalStatusWriteResponse => exact live_keepsWf h (respond_keepsWf (fun b a u => (answerFinal_quiet b a u).keepsWf) s)
  | statusWriterResponse => exact live_keepsWf h (respond_keepsWf (fun b a u => (answerStatus_quiet b a u).keepsWf) s)
  | faultReport => exact live_keepsWf h (takeReport_keepsWf _ s)
  | statusBlockWrite => exact live_keepsWf h (beginBlock_keepsWf s)
  | errorRecordWrite => exact live_keepsWf h (beginRecord_keepsWf s)
  | countWrite => exact live_keepsWf h (beginCount_keepsWf s)
  | burstGrant => exact live_keepsWf h (grant_keepsWf s)
  | abandonedResponse => exact live_keepsWf h (takeAbandoned_keepsWf _ s)

theorem step_keepsWf {s t : State} (h : step s = .next t) : KeepsWf s t := by
  obtain ⟨_, rfl⟩ | ⟨c, q, _, h⟩ := step_cases h
  · exact (pixelPeriod_mild s).keepsWf (pixelPeriod_timing s)
  · have queued : KeepsWf s (s.withQueue q) := ⟨id, id, le_rfl, id, .of_eq rfl rfl⟩
    exact queued.trans (exec_keepsWf h)

/-! ### The kinds of bursts -/

/-- R160, R162: the kinds of bursts that each predicate names. -/
theorem burstKinds : BurstKinds where
  writes k := by cases k <;> simp [BurstKind.isWrite]
  fetch k := by cases k <;> simp [BurstKind.requester]
  loader k := by cases k <;> simp [BurstKind.requester, BurstKind.isLoaderRead, BurstKind.isWrite]
  status k := by cases k <;> simp [BurstKind.requester]
  loaderReads k := by cases k <;> simp [BurstKind.requester, BurstKind.isLoaderRead, BurstKind.isWrite]
  timing k := by simp [BurstKind.isTiming]
  descriptor k := by cases k <;> simp [BurstKind.isDescriptor]
  body k := by cases k <;> simp [BurstKind.isBody]
  slotWrite k := by cases k <;> simp [BurstKind.isSlotWrite]
  span k := by cases k <;> simp [BurstKind.isSpan]
  ofSpan place k := by cases k <;> simp [BurstKind.ofSpan]
  orderHead k := by cases k <;> simp [BurstKind.isOrderHead]
  remainder k := by cases k <;> simp [BurstKind.isRemainder]
  copySrc k := by cases k <;> simp [BurstKind.isCopySrc]
  statusWrite k := by simp [BurstKind.isStatus]

/-! ### The load in hand -/

theorem softReset_ignored {s : State} : hostWrite 0x0C 4 s = resetSoft s := by
  rw [hostWrite_action, writeAction_softReset]

/-- What a command makes of the load in hand: it keeps it, or it is a reset. -/
theorem exec_load {c : Instr} {s t : State} (w : PortWf s.port) (h : exec c s = .next t) :
    KeepsLoad s t ∨ ClearsLoad s t ∧ (c.isReset = true ∨ c = .registerWriteOther 0x0C 4) := by
  cases c with
  | dirBaseWrite | outputOff | outputPark | outputRun | paintSet | paintClear | faultModeWrite | eventsWrite
  | eventEnableWrite => exact .inl (.live h (hostWrite_load (fun e => absurd e.1 (by decide)) s))
  | nudge | clearFault | resume => exact .inl (.live h (hostWrite_load (by decide) s))
  | softReset =>
    rcases live_cases h with ⟨_, rfl⟩ | ⟨_, rfl⟩
    · exact .inl (Aside.refl _).load
    · exact .inr ⟨softReset_ignored ▸ softReset_load s, .inl rfl⟩
  | registerWriteOther o v =>
    by_cases hov : o = 0x0C ∧ v = 4
    · obtain ⟨rfl, rfl⟩ := hov
      rcases live_cases h with ⟨_, rfl⟩ | ⟨_, rfl⟩
      · exact .inl (Aside.refl _).load
      · exact .inr ⟨softReset_ignored ▸ softReset_load s, .inr rfl⟩
    · exact .inl (.live h (hostWrite_load hov s))
  | powerOnReset => exact .inr ⟨Host.Outcome.next.inj h ▸ hardReset_load s, .inl rfl⟩
  | resetNRelease =>
    obtain rfl : { s with resetHeld := false } = t := Host.Outcome.next.inj h
    have released : Aside s { s with resetHeld := false } := .of_eq rfl rfl
    exact .inl released.load
  | lockEvent => exact .inl (.live h (lockTaken_load _ s))
  | lockTimeout => exact .inl (.live h (lockExpires_aside s).load)
  | startOfLine => exact .inl (.live h (lineStart_aside s).load)
  | latchPoint => exact .inl (.live h (latch_load s))
  | fenceTimedOut => exact .inl (.live h (issueTimedOut_aside s).load)
  | frameOpen => exact .inl (.live h (frameOpens_load s))
  | frameMark => exact .inl (.live h (pulseMark_aside s).load)
  | sceneChecksComplete => exact .inl (.live h (completeChecks_load s))
  | chainLoop => exact .inl (.live h (loopHalt_aside s).load)
  | timingReadResponse =>
    exact .inl (.live h (respond_load w timingKind fun b a u => (answerTiming_aside b a u).load))
  | descriptorReadResponse => exact .inl (.live h (respondDescriptor_load w))
  | bodyBurstResponse => exact .inl (.live h (respond_load w bodyKind answerBody_load))
  | slotWriteResponse =>
    exact .inl (.live h (respond_load w (fun b k => by obtain ⟨_, _, _, rfl⟩ := (burstKinds.slotWrite b).mp k; rfl)
      fun b a u => (answerSlotWrite_aside b a u).load))
  | spanBurstResponse => exact .inl (.live h (respond_load w spanKind fun b a u => (answerSpan_aside b a u).load))
  | headPointerReadResponse =>
    exact .inl (.live h (respond_load w (fun b k => beq_iff_eq.mp k ▸ rfl)
      fun b a u => (answerHeadPointer_aside b a u).load))
  | orderHeadReadResponse =>
    exact .inl (.live h (respond_load w (fun b k => by obtain ⟨_, _, rfl⟩ := (burstKinds.orderHead b).mp k; rfl)
      fun b a u => (answerOrderHead_aside b a u).load))
  | remainderReadResponse =>
    exact .inl (.live h (respond_load w (fun b k => by obtain ⟨_, rfl⟩ := (burstKinds.remainder b).mp k; rfl)
      fun b a u => (answerRemainder_aside b a u).load))
  | linkReadResponse =>
    exact .inl (.live h (respond_load w (fun b k => beq_iff_eq.mp k ▸ rfl) fun b a u => (answerLink_aside b a u).load))
  | tailRereadResponse =>
    exact .inl (.live h (respond_load w (fun b k => beq_iff_eq.mp k ▸ rfl) fun b a u => (answerTail_aside b a u).load))
  | activeWriteResponse =>
    exact .inl (.live h (respond_load w (fun b k => beq_iff_eq.mp k ▸ rfl) fun b a u => (answerActive_aside b a u).load))
  | copyReadResponse =>
    exact .inl (.live h (respond_load w (fun b k => by obtain ⟨_, rfl⟩ := (burstKinds.copySrc b).mp k; rfl)
      fun b a u => (answerCopyRead_aside b a u).load))
  | pixelWriteResponse =>
    exact .inl (.live h (respond_load w (fun b k => beq_iff_eq.mp k ▸ rfl) fun b a u => (answerPixel_aside b a u).load))
  | stampWriteResponse =>
    exact .inl (.live h (respond_load w (fun b k => beq_iff_eq.mp k ▸ rfl) fun b a u => (answerStamp_aside b a u).load))
  | finalStatusWriteResponse =>
    exact .inl (.live h (respond_load w (fun b k => beq_iff_eq.mp k ▸ rfl) fun b a u => (answerFinal_aside b a u).load))
  | statusWriterResponse =>
    exact .inl (.live h (respond_load w (fun b k => beq_iff_eq.mp k ▸ rfl) fun b a u => (answerStatus_aside b a u).load))
  | faultReport => exact .inl (.live h (takeReport_aside _ s).load)
  | statusBlockWrite => exact .inl (.live h (beginBlock_aside s).load)
  | errorRecordWrite => exact .inl (.live h (beginRecord_aside s).load)
  | countWrite => exact .inl (.live h (beginCount_aside s).load)
  | burstGrant => exact .inl (.live h (grant_load s))
  | abandonedResponse => exact .inl (.live h (takeAbandoned_aside w).load)

/-- What a step makes of the load in hand: it keeps it, or its command is a reset. -/
theorem step_load {s t : State} (w : PortWf s.port) (h : step s = .next t) :
    KeepsLoad s t ∨
      ClearsLoad s t ∧ ∃ c q, s.pending = c :: q ∧ (c.isReset = true ∨ c = .registerWriteOther 0x0C 4) := by
  obtain ⟨_, rfl⟩ | ⟨c, q, hq, hx⟩ := step_cases h
  · exact .inl (pixelPeriod_aside s).load
  · have queued : Aside s (s.withQueue q) := .of_eq rfl rfl
    obtain k | ⟨k, hc⟩ := exec_load (s := s.withQueue q) w hx
    · exact .inl (queued.keeps k)
    · exact .inr ⟨fun l => k (l.aside queued), c, q, hq, hc⟩

theorem tableFits_iff (ws : List Window) :
    TableFits ws ↔ ws.length ≤ 16 ∧ (∀ y, ¬TooDeep ws y) ∧ ∀ y, ¬TooWide ws y := by
  have deep (y : Nat) : depthAt ws y ≤ 8 ↔ ¬TooDeep ws y := Nat.not_lt.symm
  have wide (y : Nat) : budgetAt ws y ≤ 4096 ↔ ¬TooWide ws y := Nat.not_lt.symm
  simp only [TableFits, deep, wide]

/-! ### The six statements -/

/-- Settles O1: a step on a queue whose front is `c` is that command's `exec`. -/
theorem stepRunsTheFrontCommand : Obligations.StepRunsTheFrontCommand :=
  fun _ _ _ h => step_front h

/-- Settles O2: on an empty queue a step is `pixelPeriod`, in each of its cases. -/
theorem emptyQueueIsOnePixelPeriod : Obligations.EmptyQueueIsOnePixelPeriod := by
  intro s h
  rw [step_idle h]
  refine ⟨fun t lp hr ho ht hl hp => ?_, fun t lp ht hl hp => ?_, fun hs => ?_⟩
  · rw [pixelPeriod_sent hr ho ht hl hp]
  · rw [pixelPeriod_lasts ht hl hp]
  · rw [pixelPeriod_unsent hs]

/-- Settles O57, by `step_keepsWf`: a response frees a place, a grant takes a fresh tag, and a power-on reset empties the
port. -/
theorem portWfIsKept : Obligations.PortWfIsKept :=
  fun _ _ w h => ⟨(step_keepsWf h).port w, (step_keepsWf h).epoch⟩

/-- Settles O58, by `step_keepsWf`. -/
theorem faultWfIsKept : Obligations.FaultWfIsKept :=
  fun _ _ w h => (step_keepsWf h).fault w

/-- Settles O60, by `step_keepsWf`. -/
theorem scanWfIsKept : Obligations.ScanWfIsKept :=
  fun _ _ w h => (step_keepsWf h).timing w

/-- Settles O59: the records by `step_keepsWf`, the load in hand by `exec_load`. -/
theorem loaderWfIsKept : Obligations.LoaderWfIsKept := by
  refine ⟨tableFits_iff, fun s t wl h => ⟨(step_keepsWf h).loader wl, fun wp l => ?_⟩⟩
  obtain k | ⟨k, c, q, hq, hc⟩ := step_load wp h
  · obtain ⟨wt, shown⟩ := k l
    exact ⟨wt, fun hs => .inl (shown hs)⟩
  · obtain ⟨wt, unshown, seq⟩ := k l
    exact ⟨wt, fun _ => .inr ⟨unshown, seq, c, q, hq, hc⟩⟩

end Sys2Proof.Machine
end

section
/-! The register window (R172 to R176, section 10.1): what the host reads, field by field, and the writes of DIR_BASE, of
RUN and of the remaining offsets. -/

namespace Sys2Proof.Machine

/-! ### The fields of a register (section 10.1) -/

theorem getLsbD_ofNat32 (n : Nat) {i : Nat} (h : i < 32) :
    (BitVec.ofNat 32 n).getLsbD i = decide (n / 2 ^ i % 2 = 1) := by
  rw [BitVec.getLsbD_ofNat, Nat.testBit_eq_decide_div_mod_eq, decide_eq_true h, Bool.true_and]

theorem extractLsb'_ofNat32 {n k : Nat} (start len : Nat) (h : n < 2 ^ 32) (hk : k % 2 ^ len = n / 2 ^ start % 2 ^ len) :
    (BitVec.ofNat 32 n).extractLsb' start len = BitVec.ofNat len k := by
  refine BitVec.eq_of_toNat_eq ?_
  rw [BitVec.extractLsb'_toNat, BitVec.toNat_ofNat, BitVec.toNat_ofNat, Nat.shiftRight_eq_div_pow, Nat.mod_eq_of_lt h, hk]

theorem getLsbD_ofNat32_high {n b i : Nat} (h : n < 2 ^ b) (hi : b ≤ i) : (BitVec.ofNat 32 n).getLsbD i = false := by
  rw [BitVec.getLsbD_ofNat, Nat.testBit_lt_two_pow (h.trans_le (Nat.pow_le_pow_right two_pos hi)), Bool.and_false]

theorem zeroExtend_extractLsb'_low (x : BitVec 12) : (x.zeroExtend 32).extractLsb' 0 12 = x := by
  ext i hi
  simp [hi, show i < 32 by omega]

theorem aligned_iff (v : Word) : v.extractLsb' 0 6 = 0 ↔ v.toNat % 64 = 0 := by
  rw [← BitVec.toNat_inj]
  simp [BitVec.extractLsb'_toNat]

/-! ### What the host reads (R172, R173) -/

/-- RUN as a sum of its fields, each below the next one's bit. -/
theorem runWord_fields (r : Regs) :
    ∃ out paint mode : Nat, runWord r = BitVec.ofNat 32 (out + paint * 16 + mode * 256) ∧
      out = r.runOutput.toNat ∧ out < 3 ∧ paint < 2 ∧ mode < 2 ∧ decide (paint = 1) = r.runPaint ∧
      decide (mode = 1) = (r.runMode == .continue) := by
  refine ⟨r.runOutput.toNat, r.runPaint.toNat, (r.runMode == .continue).toNat, ?_, rfl, ?_, Bool.toNat_lt _,
    Bool.toNat_lt _, ?_, ?_⟩
  · unfold runWord
    cases r.runPaint <;> cases r.runMode <;> rfl
  · cases r.runOutput <;> decide
  · cases r.runPaint <;> rfl
  · cases r.runMode <;> rfl

/-- STATE as a sum of its fields, each below the next one's bit. -/
theorem stateWord_fields (s : State) :
    ∃ out engine latch staged slot : Nat,
      stateWord s = BitVec.ofNat 32 (out + engine * 16 + latch * 256 + staged * 4096 + slot * 65536) ∧
        out = s.scan.output.toNat ∧ engine = s.paint.engine.toNat ∧ slot = (slotByte s.loader.shownSlot).toNat ∧
        out < 5 ∧ engine < 7 ∧ latch < 2 ∧ staged < 2 ∧ slot < 256 ∧ decide (latch = 1) = s.fault.latch ∧
        decide (staged = 1) = s.loader.staged.isSome := by
  refine ⟨_, _, s.fault.latch.toNat, s.loader.staged.isSome.toNat, _, ?_, rfl, rfl, rfl, ?_, ?_, Bool.toNat_lt _,
    Bool.toNat_lt _, (slotByte s.loader.shownSlot).isLt, ?_, ?_⟩
  · unfold stateWord
    cases s.fault.latch <;> cases s.loader.staged.isSome <;> rfl
  · cases s.scan.output <;> decide
  · cases s.paint.engine <;> decide
  · cases s.fault.latch <;> rfl
  · cases s.loader.staged.isSome <;> rfl

section
variable {s : State} (h : s.resetHeld = false)
include h

theorem readReg_ident : readReg 0x00 s = 0x6A160001 := by simp [readReg, h]

theorem readReg_dirBase : readReg 0x04 s = s.regs.dirBase := by simp [readReg, h]

theorem readReg_run : readReg 0x08 s = runWord s.regs := by simp [readReg, h]

theorem readReg_action : readReg 0x0C s = 0 := by simp [readReg, h]

theorem readReg_state : readReg 0x18 s = stateWord s := by simp [readReg, h]

theorem readReg_beyond {o : Word} (ho : 0x1C ≤ o.toNat) : readReg o s = 0 := by
  unfold readReg
  rw [if_neg (by simp [h])]
  split <;> first | omega | rfl

end

theorem readReg_held {s : State} (h : s.resetHeld = true) (o : Word) : readReg o s = 0 := if_pos h

theorem runWord_reads (r : Regs) :
    (runWord r).extractLsb' 0 2 = BitVec.ofNat 2 r.runOutput.toNat ∧ (runWord r).getLsbD 4 = r.runPaint ∧
      (runWord r).getLsbD 8 = (r.runMode == .continue) ∧
      ∀ i, (2 ≤ i ∧ i ≤ 3) ∨ (5 ≤ i ∧ i ≤ 7) ∨ 9 ≤ i → (runWord r).getLsbD i = false := by
  obtain ⟨out, paint, mode, e, ho, lo, lp, lm, hp, hm⟩ := runWord_fields r
  rw [e, ← hp, ← hm, ← ho]
  refine ⟨extractLsb'_ofNat32 0 2 (by omega) (by omega), ?_, ?_, fun i hi => ?_⟩
  · rw [getLsbD_ofNat32 _ (by decide), decide_eq_decide]
    omega
  · rw [getLsbD_ofNat32 _ (by decide), decide_eq_decide]
    omega
  · by_cases hh : 9 ≤ i
    · exact getLsbD_ofNat32_high (b := 9) (by omega) hh
    · rw [getLsbD_ofNat32 _ (by omega), decide_eq_false_iff_not]
      have : i = 2 ∨ i = 3 ∨ i = 5 ∨ i = 6 ∨ i = 7 := by omega
      rcases this with rfl | rfl | rfl | rfl | rfl <;> omega

theorem stateWord_reads (s : State) :
    (stateWord s).extractLsb' 0 3 = BitVec.ofNat 3 s.scan.output.toNat ∧
      (stateWord s).extractLsb' 4 3 = BitVec.ofNat 3 s.paint.engine.toNat ∧ (stateWord s).getLsbD 8 = s.fault.latch ∧
      (stateWord s).getLsbD 12 = s.loader.staged.isSome ∧
      (stateWord s).extractLsb' 16 8 = slotByte s.loader.shownSlot ∧
      ∀ i, i = 3 ∨ i = 7 ∨ (9 ≤ i ∧ i ≤ 11) ∨ (13 ≤ i ∧ i ≤ 15) ∨ 24 ≤ i → (stateWord s).getLsbD i = false := by
  obtain ⟨out, engine, latch, staged, slot, e, ho, he, hs, lo, le, ll, lt, ls, hl, ht⟩ := stateWord_fields s
  rw [e, ← hl, ← ht, ← ho, ← he]
  refine ⟨extractLsb'_ofNat32 0 3 (by omega) (by omega), extractLsb'_ofNat32 4 3 (by omega) (by omega), ?_, ?_, ?_,
    fun i hi => ?_⟩
  · rw [getLsbD_ofNat32 _ (by decide), decide_eq_decide]
    omega
  · rw [getLsbD_ofNat32 _ (by decide), decide_eq_decide]
    omega
  · rw [extractLsb'_ofNat32 (k := slot) 16 8 (by omega) (by omega), hs, BitVec.ofNat_toNat, BitVec.setWidth_eq]
  · by_cases hh : 24 ≤ i
    · exact getLsbD_ofNat32_high (b := 24) (by omega) hh
    · rw [getLsbD_ofNat32 _ (by omega), decide_eq_false_iff_not]
      have : i = 3 ∨ i = 7 ∨ i = 9 ∨ i = 10 ∨ i = 11 ∨ i = 13 ∨ i = 14 ∨ i = 15 := by omega
      rcases this with rfl | rfl | rfl | rfl | rfl | rfl | rfl | rfl <;> omega

/-- Settles O4: each offset's word by `readReg`, and the fields of RUN and STATE by `runWord_reads` and
`stateWord_reads`. -/
theorem registerReads : Obligations.RegisterReads := by
  refine ⟨rfl, rfl, rfl, fun s => ⟨readReg_held, fun h => ?_⟩⟩
  rw [readReg_dirBase h, readReg_run h, readReg_events h, readReg_enable h, readReg_state h]
  obtain ⟨hout, hpaint, hmode, hrun⟩ := runWord_reads s.regs
  obtain ⟨hstate, hengine, hlatch, hstaged, hslot, hrest⟩ := stateWord_reads s
  exact ⟨readReg_ident h, rfl, readReg_action h, fun o => readReg_beyond h, fun w => (aligned_iff _).mpr w.1, hout,
    hpaint, hmode, hrun, zeroExtend_extractLsb'_low _, zeroExtend_extractLsb'_high _, zeroExtend_extractLsb'_low _,
    zeroExtend_extractLsb'_high _, hstate, hengine, hlatch, hstaged,
    hslot.trans (by cases s.loader.shownSlot <;> rfl), hrest⟩

/-! ### DIR_BASE (R174) -/

theorem exec_dirBaseWrite {s : State} (v : Word) (h : s.resetHeld = false) :
    exec (.dirBaseWrite v) s = .next (writeDirBase v s) :=
  (live_running h).trans (by rw [hostWrite_dirBase])

theorem dirBaseAccepted_iff (v : Word) (s : State) :
    dirBaseAccepted v s = true ↔ s.scan.output = .off ∧ s.paint.engine = .stopped ∧ v.extractLsb' 0 6 = 0 := by
  simp only [dirBaseAccepted, aligned_iff, Bool.and_eq_true, beq_iff_eq, and_assoc]

/-- Settles O5: the write is accepted exactly under `dirBaseAccepted_iff`. -/
theorem dirBaseWriteResult : Obligations.DirBaseWriteResult := by
  intro v s h
  rw [exec_dirBaseWrite v h]
  refine ⟨fun ho he hv => ?_, fun hn => ?_⟩
  · rw [writeDirBase, if_pos ((dirBaseAccepted_iff v s).mpr ⟨ho, he, hv⟩)]
    rfl
  · have hr : dirBaseAccepted v s ≠ true := by
      rw [ne_eq, dirBaseAccepted_iff]
      tauto
    rw [writeDirBase, if_neg hr, refuse_eq_refused]

/-! ### RUN (R175, R176) -/

/-- The OUTPUT field of a value written to RUN, by its two bits. -/
theorem runOutputField_iff (v : Word) :
    (runOutputField v = some .off ↔ v.extractLsb' 0 2 = 0) ∧ (runOutputField v = some .park ↔ v.extractLsb' 0 2 = 1) ∧
      (runOutputField v = some .run ↔ v.extractLsb' 0 2 = 2) ∧ (runOutputField v = none ↔ v.extractLsb' 0 2 = 3) := by
  unfold runOutputField
  generalize v.extractLsb' 0 2 = x
  revert x
  decide

theorem runModeField_continue (v : Word) : runModeField v = .continue ↔ v.getLsbD 8 = true := by
  unfold runModeField
  cases v.getLsbD 8 <;> decide

section
variable {s : State} (h : s.resetHeld = false) (v : Word)
include h

theorem exec_outputOff : exec (.outputOff v) s = .next (writeRun (withOutput v .off) s) :=
  (live_running h).trans (by rw [hostWrite_run])

theorem exec_outputPark : exec (.outputPark v) s = .next (writeRun (withOutput v .park) s) :=
  (live_running h).trans (by rw [hostWrite_run])

theorem exec_outputRun : exec (.outputRun v) s = .next (writeRun (withOutput v .run) s) :=
  (live_running h).trans (by rw [hostWrite_run])

theorem exec_paintSet : exec (.paintSet v) s = .next (writeRun (withPaint v true) s) :=
  (live_running h).trans (by rw [hostWrite_run])

theorem exec_paintClear : exec (.paintClear v) s = .next (writeRun (withPaint v false) s) :=
  (live_running h).trans (by rw [hostWrite_run])

theorem exec_faultModeWrite : exec (.faultModeWrite v) s = .next (writeRun v s) :=
  (live_running h).trans (by rw [hostWrite_run])

end

/-- R176: the two RUN writes that are refused whole. -/
theorem writeRun_refused {v : Word} {s : State}
    (h : ∀ t, runOutputField v = some t → s.regs.dirBase = 0 ∧ (t ≠ .off ∨ runPaintField v = true)) :
    writeRun v s = refused s := by
  unfold writeRun
  split
  · exact refuse_eq_refused s
  · rename_i t ht
    obtain ⟨hd, hw⟩ := h t ht
    rw [if_pos (by simpa [runNeedsBase, hd] using hw), refuse_eq_refused]

/-- Settles O6, by `writeRun_refused`: each row's value has no OUTPUT target, or it asks for work. -/
theorem runWriteRefusals : Obligations.RunWriteRefusals := by
  intro v s h
  rw [exec_paintSet h, exec_paintClear h, exec_faultModeWrite h, exec_outputPark h, exec_outputRun h, exec_outputOff h]
  refine ⟨fun h3 => ?_, fun hd => ⟨?_, ?_, ?_, fun h4 => ⟨?_, ?_⟩, fun h0 => ⟨?_, ?_⟩⟩⟩
  · have hn : runOutputField v = none := (runOutputField_iff v).2.2.2.mpr h3
    refine ⟨?_, ?_, ?_⟩ <;> rw [writeRun_refused fun t ht => by simp [withPaint_field, hn] at ht]
  · rw [writeRun_refused fun t ht => ⟨hd, .inl ?_⟩]
    rw [withOutput_field] at ht
    exact Option.some.inj ht ▸ OutputTarget.noConfusion
  · rw [writeRun_refused fun t ht => ⟨hd, .inl ?_⟩]
    rw [withOutput_field] at ht
    exact Option.some.inj ht ▸ OutputTarget.noConfusion
  · rw [writeRun_refused fun t _ => ⟨hd, .inr (withPaint_paint v true)⟩]
  · rw [writeRun_refused fun t _ => ⟨hd, .inr ((withOutput_paint v .off).trans h4)⟩]
  · rw [writeRun_refused fun t _ => ⟨hd, .inr h4⟩]
  all_goals
    have on (t : OutputTarget) (ht : runOutputField v = some t) : t ≠ .off :=
      fun e => h0 ((runOutputField_iff v).1.mp (e ▸ ht))
  · rw [writeRun_refused fun t ht => ⟨hd, .inl (on t (withPaint_field v false ▸ ht))⟩]
  · rw [writeRun_refused fun t ht => ⟨hd, .inl (on t ht)⟩]

/-- A RUN write is its three fields. -/
theorem writeRun_congr {v w : Word} (h1 : runOutputField v = runOutputField w) (h2 : runPaintField v = runPaintField w)
    (h3 : runModeField v = runModeField w) (s : State) : writeRun v s = writeRun w s := by
  rw [writeRun, writeRun, h1, h2, h3]

theorem withOutput_same {v : Word} {t : OutputTarget} (h : runOutputField v = some t) (s : State) :
    hostWrite 0x08 (withOutput v t) s = hostWrite 0x08 v s := by
  rw [hostWrite_run, hostWrite_run,
    writeRun_congr ((withOutput_field v t).trans h.symm) (withOutput_paint v t) (withOutput_mode v t)]

theorem withPaint_same {v : Word} {p : Bool} (h : v.getLsbD 4 = p) (s : State) :
    hostWrite 0x08 (withPaint v p) s = hostWrite 0x08 v s := by
  rw [hostWrite_run, hostWrite_run,
    writeRun_congr (withPaint_field v p) ((withPaint_paint v p).trans h.symm) (withPaint_mode v p)]

theorem acceptRun_holds (t : OutputTarget) (p : Bool) (m : FaultMode) (s : State) :
    RunHolds t p m s (acceptRun t p m s) := by
  have e := presentRun_regs (Config.runOutputFirst s.freeIdx) t p (setRun t p m s)
  unfold RunHolds acceptRun
  rw [e]
  exact ⟨rfl, rfl, rfl, rfl, rfl⟩

theorem writeRun_holds {v : Word} {t : OutputTarget} {p : Bool} {m : FaultMode} {s : State}
    (h1 : runOutputField v = some t) (h2 : runPaintField v = p) (h3 : runModeField v = m) (ha : RunAllowed t p s) :
    RunHolds t p m s (writeRun v s) := by
  rw [writeRun_accepted h1 h2 h3 ha]
  exact acceptRun_holds t p m s

/-- Settles O7: the fields by `runOutputField_iff`, the six commands by `writeRun_congr`, the replacement by
`writeRun_holds`. -/
theorem acceptedRunWriteReplacesAllThreeFields : Obligations.AcceptedRunWriteReplacesAllThreeFields := by
  refine ⟨fun v => ?_, fun v s => ?_, fun v t s h => ?_⟩
  · obtain ⟨h0, h1, h2, h3⟩ := runOutputField_iff v
    exact ⟨h0, h1, h2, h3, runModeField_continue v⟩
  · have same (w : Word) (e : ∀ u, hostWrite 0x08 w u = hostWrite 0x08 v u) :
        live (hostWrite 0x08 w) s = live (hostWrite 0x08 v) s := by rw [funext e]
    exact ⟨fun k => same _ (withOutput_same k), fun k => same _ (withOutput_same k), fun k => same _ (withOutput_same k),
      fun k => same _ (withPaint_same k), fun k => same _ (withPaint_same k)⟩
  · have output (t : OutputTarget) (ha : RunAllowed t (v.getLsbD 4) s) :=
      writeRun_holds (withOutput_field v t) (withOutput_paint v t) (withOutput_mode v t) ha
    have paint (p : Bool) (hf : runOutputField v = some t) (ha : RunAllowed t p s) :=
      writeRun_holds ((withPaint_field v p).trans hf) (withPaint_paint v p) (withPaint_mode v p) ha
    exact ⟨fun ha => ⟨_, exec_outputOff h v, output _ ha⟩, fun ha => ⟨_, exec_outputPark h v, output _ ha⟩,
      fun ha => ⟨_, exec_outputRun h v, output _ ha⟩, fun hf ha => ⟨_, exec_paintSet h v, paint _ hf ha⟩,
      fun hf ha => ⟨_, exec_paintClear h v, paint _ hf ha⟩,
      fun hf ha => ⟨_, exec_faultModeWrite h v, writeRun_holds hf rfl rfl ha⟩⟩

/-- R54: an output request that finds the output where it asks it to be has no effect. -/
theorem requestOutput_idle {t : OutputTarget} {s : State} (h : idleRequest t s.scan.output = true) :
    requestOutput t s = s := by
  unfold idleRequest at h
  unfold requestOutput requestOff requestPark requestRun
  cases t <;> cases ho : s.scan.output <;> simp [ho] at h ⊢

theorem presentRun_idle {b p : Bool} {t : OutputTarget} {s : State} (h : idleRequest t s.scan.output = true)
    (hp : p = true ↔ s.paint.engine ≠ .stopped) : presentRun b t p s = s := by
  unfold presentRun
  rw [requestOutput_idle h, requestPaint_idle hp, requestOutput_idle h, ite_self]

/-- Settles O8: with both fields idle `presentRun` changes nothing. -/
theorem faultModeWriteChangesNoBlock : Obligations.FaultModeWriteChangesNoBlock := by
  intro v t s h hf ha hi hp
  rw [exec_faultModeWrite h, writeRun_accepted hf rfl rfl ha, acceptRun]
  rw [presentRun_idle (p := runPaintField v) (s := setRun t (runPaintField v) (runModeField v) s) hi hp]
  rfl

/-! ### The remaining offsets (R172, R176) -/

/-- Settles O22: the ignored offsets by `hostWrite_ignored`, the unknown actions by `writeAction_unknown`. -/
theorem otherRegisterWrites : Obligations.OtherRegisterWrites := by
  intro o v s h
  have run (o : Word) : exec (.registerWriteOther o v) s = .next (hostWrite o v s) := live_running h
  rw [run, run]
  refine ⟨fun ho => by rw [hostWrite_ignored v s ho], fun hv => ?_⟩
  have unknown : ¬(1 ≤ v.toNat ∧ v.toNat ≤ 4) := by
    rcases hv with rfl | hv
    · decide
    · omega
  rw [hostWrite_action, writeAction_unknown s unknown, refuse_eq_refused]

end Sys2Proof.Machine
end

section
/-! The resets (R169, R170, R179, R180): the state that each leaves, field by field. -/

namespace Sys2Proof.Machine

theorem stateWord_resetSoft (s : State) : stateWord (resetSoft s) = 0x00FF0000 := by
  have e : stateWord (resetSoft s) = stateWord State.reset := rfl
  rw [e]
  decide

/-- Settles O17: `resetSoft` written out. -/
theorem softResetResult : Obligations.SoftResetResult := by
  intro s h
  refine ⟨_, exec_softReset h, ?_, ?_, ?_, rfl, rfl, rfl, rfl, rfl, rfl, rfl, rfl, rfl, rfl, rfl, rfl, rfl, rfl, rfl⟩
  · rw [readReg_state rfl, stateWord_resetSoft]
  · rw [readReg_run rfl]
    rfl
  · simp [irqN, resetSoft, Regs.reset]

/-- R180: while RESET_N is asserted every command but the two of RESET_N is ignored. -/
theorem exec_held {c : Instr} {s : State} (h : s.resetHeld = true) (h1 : c ≠ .powerOnReset) (h2 : c ≠ .resetNRelease) :
    exec c s = .next s := by
  cases c with
  | powerOnReset => exact absurd rfl h1
  | resetNRelease => exact absurd rfl h2
  | _ => exact live_held h

/-- Settles O18: `resetHard` written out, and `exec_held`. -/
theorem powerOnResetAndRelease : Obligations.PowerOnResetAndRelease :=
  fun _ => ⟨rfl, rfl, fun h _ => exec_held h⟩

theorem loadWf_reset : LoadWf State.reset where
  asked := rfl
  idle _ := rfl
  reads := by simp [openDescriptors, State.reset, Port.reset]
  read n h := by fin_cases n <;> exact absurd rfl h
  chosen n d h := by simp [State.reset, Loader.reset] at h
  choosing h := absurd rfl h
  alone h := absurd rfl h
  newer st h := by simp [State.reset, Loader.reset] at h
  apart st h := by simp [State.reset, Loader.reset] at h
  elsewhere := by simp [State.reset, Port.reset]

theorem regsWf_reset : RegsWf State.reset :=
  ⟨rfl, fun h => absurd rfl h⟩

/-- Settles O19: every record of `State.reset`, and the lemmas `faultWf_reset` to `regsWf_reset`. -/
theorem resetValuesAreWellFormed : Obligations.ResetValuesAreWellFormed :=
  ⟨rfl, by decide, by decide, by decide, by decide, by decide, by decide, by decide, by decide, rfl, portWf_empty 0,
    faultWf_reset, loaderWf_reset, loadWf_reset, scanWf_reset, regsWf_reset⟩

end Sys2Proof.Machine
end

section
/-! The registers, counters and records that one command each may change (R149, R151, R69, R102, R154, R174, R180): the
commands that own one, command by command, and every other by `exec_plain`. -/

namespace Sys2Proof.Machine

/-! ### The queue -/

theorem writeAction_pending (v : Word) (s : State) : (writeAction v s).pending = s.pending := by
  unfold writeAction
  split
  · exact (nudgeEngine_quiet s).pending
  · unfold clearLatch
    split <;> rfl
  · exact (resumeEngine_quiet s).pending
  · rfl
  · rfl

theorem hostWrite_pending (o v : Word) (s : State) : (hostWrite o v s).pending = s.pending := by
  unfold hostWrite
  split
  · unfold writeDirBase
    split <;> rfl
  · exact (writeRun_plain v s).pending
  · exact writeAction_pending v s
  · rfl
  · rfl
  · rfl

theorem takeReport_pending (source : Source) (s : State) : (takeReport source s).pending = s.pending := by
  unfold takeReport countReport
  split
  · rfl
  · dsimp only
    split
    · split <;> rfl
    · rfl

theorem beginBlock_pending (s : State) : (beginBlock s).pending = s.pending := by
  unfold beginBlock
  split <;> rfl

theorem live_pending {f : State → State} {s t : State} (h : live f s = .next t) (k : (f s).pending = s.pending) :
    t.pending = s.pending := by
  rcases live_cases h with ⟨_, rfl⟩ | ⟨_, rfl⟩
  · rfl
  · exact k

/-- No command touches the queue of the commands that wait. -/
theorem exec_pending {c : Instr} {s t : State} (h : exec c s = .next t) : t.pending = s.pending := by
  cases howns : ownsMore c with
  | false => exact (exec_plain h howns).pending
  | true =>
    cases c with
    | dirBaseWrite | eventsWrite | eventEnableWrite | registerWriteOther | clearFault | softReset =>
      exact live_pending h (hostWrite_pending _ _ s)
    | faultReport => exact live_pending h (takeReport_pending _ s)
    | latchPoint => exact live_pending h (latch_calm s).pending
    | startOfLine => exact live_pending h (lineStart_calm s).pending
    | statusBlockWrite => exact live_pending h (beginBlock_pending s)
    | powerOnReset | resetNRelease => exact Host.Outcome.next.inj h ▸ rfl
    | _ => exact Bool.noConfusion howns

/-- Settles O3, by `exec_next` and `exec_pending`. -/
theorem everyCommandAnswersANextState : Obligations.EveryCommandAnswersANextState := by
  intro c s
  obtain ⟨u, h⟩ := exec_next c s
  exact ⟨u, h, exec_pending h⟩

/-! ### The owners of the counters and records -/

/-- What the command `c` may have changed between `s` and `u` of the registers, counters and records that one command
each owns. -/
structure OwnersOnly (c : Instr) (s u : State) : Prop where
  dirBase : (∀ v, c ≠ .dirBaseWrite v) → u.regs.dirBase = s.regs.dirBase
  enable : (∀ v, c ≠ .eventEnableWrite v) → u.regs.enable = s.regs.enable
  latched : s.fault.latch = true → c ≠ .clearFault →
    u.fault.latch = true ∧ u.fault.record = s.fault.record ∧ s.fault.later ≤ u.fault.later
  unlatched : (∀ src, c ≠ .faultReport src) → s.fault.latch = false →
    u.fault.latch = false ∧ u.fault.record = s.fault.record
  frame : c ≠ .latchPoint → u.scan.frameCounter = s.scan.frameCounter
  frameStep : u.scan.frameCounter = s.scan.frameCounter ∨ u.scan.frameCounter = s.scan.frameCounter + 1
  underruns : c ≠ .startOfLine → u.fetch.underruns = s.fetch.underruns
  underrunsRise : s.fetch.underruns.toNat ≤ u.fetch.underruns.toNat
  update : c ≠ .statusBlockWrite → u.writer.update = s.writer.update
  resetHeld : c ≠ .resetNRelease → u.resetHeld = s.resetHeld

theorem Plain.ownersOnly {s u : State} (h : Plain s u) (c : Instr) : OwnersOnly c s u where
  dirBase _ := h.dirBase
  enable _ := h.enable
  latched e _ := ⟨h.latch.trans e, h.record, h.later.ge⟩
  unlatched _ e := ⟨h.latch.trans e, h.record⟩
  frame _ := h.frameCounter
  frameStep := .inl h.frameCounter
  underruns _ := h.underruns
  underrunsRise := by rw [h.underruns]
  update _ := h.update
  resetHeld _ := h.resetHeld

/-- A `Calm` operation changes no more than the frame counter and the underrun count. -/
theorem Calm.ownersOnly {s u : State} (h : Calm s u) {c : Instr}
    (frame : c ≠ .latchPoint → u.scan.frameCounter = s.scan.frameCounter)
    (frameStep : u.scan.frameCounter = s.scan.frameCounter ∨ u.scan.frameCounter = s.scan.frameCounter + 1)
    (underruns : c ≠ .startOfLine → u.fetch.underruns = s.fetch.underruns)
    (rise : s.fetch.underruns.toNat ≤ u.fetch.underruns.toNat) : OwnersOnly c s u :=
  ⟨fun _ => h.dirBase, fun _ => h.enable, fun e _ => ⟨h.latch.trans e, h.record, h.later.ge⟩,
    fun _ e => ⟨h.latch.trans e, h.record⟩, frame, frameStep, underruns, rise, fun _ => h.update, fun _ => h.resetHeld⟩

theorem live_ownersOnly {c : Instr} {f : State → State} {s u : State} (h : live f s = .next u)
    (k : OwnersOnly c s (f s)) : OwnersOnly c s u := by
  rcases live_cases h with ⟨_, rfl⟩ | ⟨_, rfl⟩
  · exact (Plain.refl _).ownersOnly c
  · exact k

theorem writeDirBase_ownersOnly (v : Word) (s : State) : OwnersOnly (.dirBaseWrite v) s (writeDirBase v s) := by
  unfold writeDirBase
  split
  · exact ⟨fun h => absurd rfl (h v), fun _ => rfl, fun h _ => ⟨h, rfl, le_rfl⟩, fun _ h => ⟨h, rfl⟩, fun _ => rfl,
      .inl rfl, fun _ => rfl, le_rfl, fun _ => rfl, fun _ => rfl⟩
  · exact (raise_quiet _ s).plain.ownersOnly _

theorem setEnable_ownersOnly (v : Word) (s : State) :
    OwnersOnly (.eventEnableWrite v) s (s.modRegs (Regs.setEnable v)) :=
  ⟨fun _ => rfl, fun h => absurd rfl (h v), fun h _ => ⟨h, rfl, le_rfl⟩, fun _ h => ⟨h, rfl⟩, fun _ => rfl, .inl rfl,
    fun _ => rfl, le_rfl, fun _ => rfl, fun _ => rfl⟩

theorem clearEvents_ownersOnly (c : Instr) (v : Word) (s : State) :
    OwnersOnly c s (s.modRegs (Regs.clearEvents v)) :=
  ⟨fun _ => rfl, fun _ => rfl, fun h _ => ⟨h, rfl, le_rfl⟩, fun _ h => ⟨h, rfl⟩, fun _ => rfl, .inl rfl,
    fun _ => rfl, le_rfl, fun _ => rfl, fun _ => rfl⟩

theorem clearLatch_ownersOnly (s : State) : OwnersOnly .clearFault s (clearLatch s) := by
  cases hl : s.fault.latch with
  | false =>
    rw [clearLatch_clear hl]
    exact (Plain.refl s).ownersOnly _
  | true =>
    rw [clearLatch_set hl]
    exact ⟨fun _ => rfl, fun _ => rfl, fun _ h => absurd rfl h, fun _ h => absurd (hl.symm.trans h) Bool.noConfusion,
      fun _ => rfl, .inl rfl, fun _ => rfl, le_rfl, fun _ => rfl, fun _ => rfl⟩

theorem takeReport_ownersOnly (source : Source) (s : State) : OwnersOnly (.faultReport source) s (takeReport source s) := by
  unfold takeReport
  split
  · exact (Plain.refl s).ownersOnly _
  · dsimp only
    split
    · unfold countReport
      split
      · exact ⟨fun _ => rfl, fun _ => rfl, fun h _ => ⟨h, rfl, Nat.le_succ _⟩, fun _ h => ⟨h, rfl⟩, fun _ => rfl,
          .inl rfl, fun _ => rfl, le_rfl, fun _ => rfl, fun _ => rfl⟩
      · exact ⟨fun _ => rfl, fun _ => rfl, fun h _ => ⟨h, rfl, le_rfl⟩, fun _ h => ⟨h, rfl⟩, fun _ => rfl, .inl rfl,
          fun _ => rfl, le_rfl, fun _ => rfl, fun _ => rfl⟩
    · rename_i hl
      exact ⟨fun _ => rfl, fun _ => rfl, fun h _ => absurd h hl, fun h _ => absurd rfl (h source), fun _ => rfl,
        .inl rfl, fun _ => rfl, le_rfl, fun _ => rfl, fun _ => rfl⟩

theorem beginBlock_ownersOnly (s : State) : OwnersOnly .statusBlockWrite s (beginBlock s) := by
  unfold beginBlock
  split
  · exact ⟨fun _ => rfl, fun _ => rfl, fun h _ => ⟨h, rfl, le_rfl⟩, fun _ h => ⟨h, rfl⟩, fun _ => rfl, .inl rfl,
      fun _ => rfl, le_rfl, fun h => absurd rfl h, fun _ => rfl⟩
  · exact (Plain.refl s).ownersOnly _

/-- R69: a latch point leaves the frame counter as it is or advances it by one. -/
theorem latch_frameCounter (s : State) :
    (latch s).scan.frameCounter = s.scan.frameCounter ∨ (latch s).scan.frameCounter = s.scan.frameCounter + 1 := by
  unfold latch
  split
  · split
    · split
      · rw [latchRunning_scan, decideMark_scan]
        exact .inr rfl
      · rw [latchParking_scan]
        exact .inr rfl
      all_goals exact .inl rfl
    · exact .inl rfl
  · exact .inl rfl

theorem latch_fetch (s : State) : (latch s).fetch = s.fetch := by
  unfold latch
  split
  · split
    · split
      · exact (latchPaint_paintOnly true _).fetch.trans (beginLoad_frame _).2.2.2.1
      · exact (latchPaint_paintOnly true _).fetch
      all_goals rfl
    · rfl
  · rfl

theorem latch_ownersOnly (s : State) : OwnersOnly .latchPoint s (latch s) :=
  (latch_calm s).ownersOnly (fun h => absurd rfl h) (latch_frameCounter s) (fun _ => by rw [latch_fetch])
    (by rw [latch_fetch])

/-- R102: the underrun count does not fall, at its limit either. -/
theorem bumpUnderruns_rises (n : Word) : n.toNat ≤ (bumpUnderruns n).toNat := by
  unfold bumpUnderruns
  split
  · exact le_rfl
  · bv_omega

theorem endFetch_underruns (s : State) : s.fetch.underruns.toNat ≤ (endFetch s).fetch.underruns.toNat := by
  rw [(endFetch_spec rfl).1]
  dsimp only
  split
  · exact bumpUnderruns_rises _
  · exact le_rfl

theorem composeLine_underruns (t : Timing) (n : Nat) (s : State) :
    s.fetch.underruns.toNat ≤ (composeLine t n s).fetch.underruns.toNat := by
  unfold composeLine
  split
  · dsimp only
    split
    · rw [(formLine_quiet t.w (n + 1) (takeList (endFetch s))).underruns]
      exact endFetch_underruns s
    · exact endFetch_underruns s
  · exact le_rfl

theorem lineStart_underruns (s : State) : s.fetch.underruns.toNat ≤ (lineStart s).fetch.underruns.toNat := by
  unfold lineStart
  split
  · rename_i t lp _ _
    split
    · exact composeLine_underruns t _ (scanLine t (nextLine t lp.line) s)
    · exact le_rfl
  · exact le_rfl

theorem lineStart_frameCounter (s : State) : (lineStart s).scan.frameCounter = s.scan.frameCounter := by
  unfold lineStart
  split
  · rename_i t lp _ _
    split
    · rw [(composeLine_frame t (nextLine t lp.line) (scanLine t (nextLine t lp.line) s)).1]
      rfl
    · rfl
  · rfl

theorem lineStart_ownersOnly (s : State) : OwnersOnly .startOfLine s (lineStart s) :=
  (lineStart_calm s).ownersOnly (fun _ => lineStart_frameCounter s) (.inl (lineStart_frameCounter s))
    (fun h => absurd rfl h) (lineStart_underruns s)

theorem hostWrite_other_ownersOnly {o v : Word} (s : State) (h : otherWriteOk o v = true) :
    OwnersOnly (.registerWriteOther o v) s (hostWrite o v s) := by
  obtain ho | ⟨rfl, hv⟩ := otherWriteOk_cases h
  · rw [hostWrite_ignored v s ho]
    exact (Plain.refl s).ownersOnly _
  · rw [hostWrite_action, writeAction_unknown s hv]
    exact (raise_quiet _ s).plain.ownersOnly _

/-- Every well-formed command but a reset leaves what it does not own. -/
theorem exec_ownersOnly {c : Instr} {s u : State} (hwf : c.wellFormed = true) (hreset : c.isReset = false)
    (h : exec c s = .next u) : OwnersOnly c s u := by
  cases howns : ownsMore c with
  | false => exact (exec_plain h howns).ownersOnly c
  | true =>
    cases c with
    | dirBaseWrite v => exact live_ownersOnly h (hostWrite_dirBase v s ▸ writeDirBase_ownersOnly v s)
    | eventsWrite v => exact live_ownersOnly h (hostWrite_events v s ▸ clearEvents_ownersOnly _ v s)
    | eventEnableWrite v => exact live_ownersOnly h (hostWrite_enable v s ▸ setEnable_ownersOnly v s)
    | registerWriteOther => exact live_ownersOnly h (hostWrite_other_ownersOnly s hwf)
    | clearFault =>
      refine live_ownersOnly h ?_
      rw [hostWrite_action, writeAction_clearFault]
      exact clearLatch_ownersOnly s
    | faultReport => exact live_ownersOnly h (takeReport_ownersOnly _ s)
    | latchPoint => exact live_ownersOnly h (latch_ownersOnly s)
    | startOfLine => exact live_ownersOnly h (lineStart_ownersOnly s)
    | statusBlockWrite => exact live_ownersOnly h (beginBlock_ownersOnly s)
    | softReset | powerOnReset => exact Bool.noConfusion hreset
    | resetNRelease =>
      obtain rfl : { s with resetHeld := false } = u := Host.Outcome.next.inj h
      exact ⟨fun _ => rfl, fun _ => rfl, fun h _ => ⟨h, rfl, le_rfl⟩, fun _ h => ⟨h, rfl⟩, fun _ => rfl, .inl rfl,
        fun _ => rfl, le_rfl, fun _ => rfl, fun h => absurd rfl h⟩
    | _ => exact Bool.noConfusion howns

/-- Settles O56, by `exec_ownersOnly`. -/
theorem countersAndRecordsChangeOnlyByTheirOwners : Obligations.CountersAndRecordsChangeOnlyByTheirOwners := by
  intro c s u hwf hreset h
  have k := exec_ownersOnly hwf hreset h
  exact ⟨k.dirBase, k.enable, k.latched, k.unlatched, k.frame, k.frameStep, k.underruns, k.underrunsRise, k.update,
    k.resetHeld⟩

end Sys2Proof.Machine
end

section
/-! The fields of records in shared memory (R182), the timing record (R51, R53) and the lock timer (R57). -/

namespace Sys2Proof.Machine

/-! ### Fields of a record (R182) -/

theorem u8_of_getElem? {l : List Byte} {o : Nat} {a : Byte} (h : l[o]? = some a) : u8 l o = a := by
  simp [u8, h]

theorem toNat_append_byte {n : Nat} (x : BitVec n) (y : Byte) : (x ++ y).toNat = 256 * x.toNat + y.toNat := by
  rw [BitVec.toNat_append, ← Nat.shiftLeft_add_eq_or_of_lt y.isLt, Nat.shiftLeft_eq]
  omega

theorem u32_toNat (l : List Byte) (o : Nat) :
    (u32 l o).toNat =
      (u8 l o).toNat + 256 * (u8 l (o + 1)).toNat + 65536 * (u8 l (o + 2)).toNat + 16777216 * (u8 l (o + 3)).toNat := by
  unfold u32
  rw [toNat_append_byte, toNat_append_byte, toNat_append_byte]
  omega

theorem s16_toInt (l : List Byte) (o : Nat) :
    s16 l o =
      if (u8 l (o + 1)).toNat < 128 then ((u8 l o).toNat + 256 * (u8 l (o + 1)).toNat : Int)
      else ((u8 l o).toNat + 256 * (u8 l (o + 1)).toNat : Int) - 65536 := by
  unfold s16
  have low := (u8 l o).isLt
  rw [BitVec.toInt_eq_toNat_cond, toNat_append_byte]
  split <;> split <;> omega

theorem fieldRule (l : List Byte) (o : Nat) : FieldRule l o where
  byte _ h := u8_of_getElem? h
  half a b ha hb := by rw [u16, u8_of_getElem? ha, u8_of_getElem? hb]
  word a b c d ha hb hc hd := by
    rw [u32_toNat, u8_of_getElem? ha, u8_of_getElem? hb, u8_of_getElem? hc, u8_of_getElem? hd]
  signed a b ha hb := by rw [s16_toInt, u8_of_getElem? ha, u8_of_getElem? hb]
  colour b g r hb hg hr := by rw [colourAt, u8_of_getElem? hb, u8_of_getElem? hg, u8_of_getElem? hr]

theorem u32_le32 (w : Word) : u32 (le32 w) 0 = w := by
  refine BitVec.eq_of_toNat_eq ?_
  rw [u32_toNat]
  simp only [u8, le32, List.getD_cons_zero, List.getD_cons_succ, BitVec.extractLsb'_toNat, Nat.shiftRight_eq_div_pow]
  have := w.isLt
  omega

theorem u16_le16 {n : Nat} (h : n < 65536) : u16 (le16 n) 0 = n := by
  simp only [u16, u8, le16, List.getD_cons_zero, List.getD_cons_succ, BitVec.toNat_ofNat]
  omega

theorem writtenRule : WrittenRule where
  half _ h := ⟨rfl, u16_le16 h⟩
  word w := ⟨rfl, u32_le32 w⟩

/-! ### The timing record (R51, R53) -/

theorem Timing.legal_iff (t : Timing) :
    t.legal = true ↔
      (16 ≤ t.w ∧ t.w ≤ 2048) ∧ (16 ≤ t.h ∧ t.h ≤ 2048) ∧ (8 ≤ t.b ∧ t.b ≤ 1024) ∧ (1 ≤ t.v ∧ t.v ≤ 255) ∧
        (2 ≤ t.div ∧ t.div ≤ 64) ∧ (t.outWidth = 16 ∨ t.outWidth = 18 ∨ t.outWidth = 24) ∧ t.markDiv ≤ 16 ∧
        t.markDelay ≤ 1023 ∧ t.markDelay < t.h + t.v := by
  simp only [Timing.legal, Bool.and_eq_true, Bool.or_eq_true, decide_eq_true_eq, beq_iff_eq, and_assoc, or_assoc]

theorem answerTiming_legal {b : Burst} {data : List Byte} {s : State} (ho : s.scan.output = .locking)
    (hp : s.scan.lockPhase = some .reading) (h : (parseTiming data).legal = true) :
    answerTiming b (some data) s = acceptTiming (parseTiming data) s := by
  simp [answerTiming, ho, hp, h]

theorem answerTiming_illegal {b : Burst} {data : List Byte} {s : State} (ho : s.scan.output = .locking)
    (hp : s.scan.lockPhase = some .reading) (h : (parseTiming data).legal = false) :
    answerTiming b (some data) s = failEntry .timingBad s.regs.dirBase s := by
  simp [answerTiming, ho, hp, h]

/-- Settles O23: the fields by `fieldRule`, `writtenRule` and `parseTiming` itself, the two outcomes by
`answerTiming_legal` and `answerTiming_illegal`. -/
theorem timingRecordResult : Obligations.TimingRecordResult := by
  refine ⟨fun l => ⟨fieldRule l, rfl⟩, writtenRule, Timing.legal_iff, fun tag data b o s ha hl ho hp hor => ?_⟩
  have answered : exec (.timingReadResponse tag (.ok data)) s =
      .next (answerTiming b (some (named b data)) (freed tag s)) := respond_ok answerTiming ha hl
  rw [answered]
  refine ⟨fun h => ?_, fun h => ?_⟩
  · rw [answerTiming_legal (s := freed tag s) ho hp h]
    rfl
  · rw [answerTiming_illegal (s := freed tag s) ho hp h, failEntry_eq_returnedToOrigin _ _ (s := freed tag s) hor]
    rfl

/-! ### The lock timer (R57) -/

/-- Settles O25: the expiry is `failEntry` in lock phase LOCKING THE CLOCK, and nothing elsewhere. -/
theorem lockTimeoutResult : Obligations.LockTimeoutResult := by
  intro s h
  have run : exec .lockTimeout s = .next (lockExpires s) := live_running h
  rw [run]
  refine ⟨fun o ho hp hor => ?_, fun hn => ?_⟩
  · rw [lockExpires, if_pos ⟨ho, hp⟩, failEntry_eq_returnedToOrigin _ _ hor]
  · rw [lockExpires, if_neg (by tauto)]

/-! ### The frame mark (R70) -/

theorem mask_frameMark : Event.frameMark.mask = 0x004 := by decide

/-- Settles O33: the pulse is due in a frame whose mark has no line to go, and nowhere else. -/
theorem frameMarkResult : Obligations.FrameMarkResult := by
  intro s h
  have run : exec .frameMark s = .next (pulseMark s) := live_running h
  rw [run, pulseMark, scanning_eq_sends]
  refine ⟨fun ho hm => ?_, fun hn => ?_⟩
  · rw [if_pos (by simp [ho, hm]), ← mask_frameMark]
    rfl
  · rw [if_neg (by simpa [Bool.and_eq_true, ← not_and_or, imp_iff_not_or] using hn)]

end Sys2Proof.Machine
end

section
/-! The start of a line (R65, R70, R73 to R76, R100 to R102): the scan, the compositor and the line store. -/

namespace Sys2Proof.Machine

/-- Some span of the line being filled has not arrived (R102). -/
def lateLine (f : Fetch) : Bool :=
  f.active.isSome && f.filling.any fun sp => sp.status == .waiting

theorem mask_underrun : Event.underrun.mask = 0x008 := by decide

/-- R100 to R102: the end of a fetch, the whole state. -/
theorem endFetch_eq (s : State) :
    endFetch s =
      { s with
        regs := if lateLine s.fetch then { s.regs with events := s.regs.events ||| 0x008 } else s.regs
        fetch :=
          { active := none, filling := s.fetch.reading, reading := s.fetch.filling,
            underruns := if lateLine s.fetch then bumpUnderruns s.fetch.underruns else s.fetch.underruns }
        port := Port.dropReads BurstKind.isSpan { s.port with fetch := [] } } := by
  rw [← mask_underrun]
  unfold endFetch lateLine
  cases s.fetch.active.isSome && s.fetch.filling.any fun sp => sp.status == .waiting <;> rfl

/-- R73, R95: what forming a line's list changes. -/
theorem formLine_eq (w y : Nat) (s : State) :
    formLine w y s =
      { s with
        comp := { s.comp with coming := (formLine w y s).comp.coming }
        fetch := { s.fetch with active := (formLine w y s).fetch.active, filling := (formLine w y s).fetch.filling }
        port := { s.port with fetch := (formLine w y s).port.fetch } } := by
  unfold formLine
  split <;> rfl

theorem formLine_coming {w y : Nat} {s : State} (h : s.loader.shownSlot ≠ none) :
    (formLine w y s).comp.coming = comingList s w y := by
  rw [formLine, if_pos (Option.isSome_iff_ne_none.mpr h)]
  rfl

/-- R76, R100: an active line's start, up to the list of the line after it. -/
theorem takeList_endFetch_eq (s : State) :
    takeList (endFetch s) =
      { endFetch s with
        comp :=
          { s.comp with
            current := s.comp.coming.zipIdx.map fun p => { p.1 with mark := skipMark (endFetch s) p.2 p.1 }
            coming := [] } } := by
  have hc : (endFetch s).comp = s.comp := by rw [endFetch_eq]
  rw [takeList, State.modComp, hc]

theorem composeLine_blank {t : Timing} {n : Nat} (h : t.h ≤ n) (s : State) :
    composeLine t n s = s.modComp fun c => { c with current := [] } := if_neg (Nat.not_lt.mpr h)

theorem composeLine_last {t : Timing} {n : Nat} (h : n < t.h) (k : ¬n + 1 < t.h) (s : State) :
    composeLine t n s = takeList (endFetch s) := by
  rw [composeLine, if_pos h]
  exact if_neg k

theorem composeLine_inner {t : Timing} {n : Nat} (h : n < t.h) (k : n + 1 < t.h) (s : State) :
    composeLine t n s = formLine t.w (n + 1) (takeList (endFetch s)) := by
  rw [composeLine, if_pos h]
  exact if_pos k

/-- What a line's start changes in the compositor and the line store, the whole state. -/
theorem composeLine_eq (t : Timing) (n : Nat) (s : State) :
    composeLine t n s =
      { s with
        regs := (composeLine t n s).regs, comp := (composeLine t n s).comp, fetch := (composeLine t n s).fetch
        port :=
          { s.port with fetch := (composeLine t n s).port.fetch, reads := (composeLine t n s).port.reads } } := by
  by_cases h : n < t.h
  · by_cases k : n + 1 < t.h
    · rw [composeLine_inner h k, formLine_eq, takeList_endFetch_eq, endFetch_eq]
      rfl
    · rw [composeLine_last h k, takeList_endFetch_eq, endFetch_eq]
      rfl
  · rw [composeLine_blank (Nat.not_lt.mp h)]
    rfl

theorem exec_startOfLine {t : Timing} {lp : LinePos} {n : Nat} {s : State} (hr : s.resetHeld = false)
    (ho : s.scan.output.sends = true) (ht : s.scan.timing = some t) (hl : s.scan.line = some lp)
    (h1 : lp.latchDue = false) (h2 : lp.openDue = false) (h3 : s.scan.mark ≠ some 0)
    (hn : n = (if lp.line + 1 < t.h + t.v then lp.line + 1 else 0)) :
    exec .startOfLine s = .next (composeLine t n (scanLine t n s)) :=
  (live_running hr).trans (by rw [lineStart_taken ho ht hl h1 h2 h3 hn])

/-- Settles O27: `lineStart_taken` begins the next line, and `composeLine_eq` says what else may change. -/
theorem startOfLineResult : Obligations.StartOfLineResult := by
  intro t lp n s hr ho ht hl h1 h2 h3 hn
  have hscan := (composeLine_frame t n (scanLine t n s)).1
  refine ⟨_, exec_startOfLine hr ho ht hl h1 h2 h3 hn, hscan, ?_, fun hb => ?_⟩
  · rw [hscan]
    exact composeLine_eq t n (scanLine t n s)
  · rw [composeLine_blank hb]
    exact ⟨rfl, rfl, rfl, rfl⟩

/-- The columns and the row of a listed window stand when the list becomes current. -/
theorem marked_columns (m : Listed × Nat → Bool) (ls : List Listed) :
    (ls.zipIdx.map fun p => { p.1 with mark := m p }).map (fun l : Listed => (l.pos, l.first, l.count, l.row)) =
      ls.map fun l => (l.pos, l.first, l.count, l.row) := by
  rw [List.map_map]
  calc ls.zipIdx.map _
      = (ls.zipIdx.map Prod.fst).map fun l => (l.pos, l.first, l.count, l.row) := by rw [List.map_map]; rfl
    _ = _ := by rw [List.zipIdx_map_fst]

/-- What the start of active line `n` makes of the compositor and the line store, whether or not a list is formed. -/
theorem composeLine_active {t : Timing} {n : Nat} {s : State} (h : n < t.h) :
    (composeLine t n s).fetch.reading = s.fetch.filling ∧
      (composeLine t n s).fetch.underruns = (endFetch s).fetch.underruns ∧
      (composeLine t n s).regs = (endFetch s).regs ∧
      (composeLine t n s).comp.current =
        s.comp.coming.zipIdx.map (fun p => { p.1 with mark := skipMark (endFetch s) p.2 p.1 }) ∧
      (composeLine t n s).comp.flags = s.comp.flags ∧ (composeLine t n s).comp.offsets = s.comp.offsets ∧
      (composeLine t n s).port.reads = (Port.dropReads BurstKind.isSpan s.port).reads := by
  by_cases k : n + 1 < t.h
  · rw [composeLine_inner h k, formLine_eq, takeList_endFetch_eq, endFetch_eq]
    exact ⟨rfl, rfl, rfl, rfl, rfl, rfl, rfl⟩
  · rw [composeLine_last h k, takeList_endFetch_eq, endFetch_eq]
    exact ⟨rfl, rfl, rfl, rfl, rfl, rfl, rfl⟩

/-- With no list to form, no fetch begins. -/
theorem composeLine_unlisted {t : Timing} {n : Nat} {s : State} (h : n < t.h)
    (k : n + 1 = t.h ∨ s.loader.shownSlot = none) :
    (composeLine t n s).fetch.active = none ∧ (composeLine t n s).comp.coming = [] ∧
      (composeLine t n s).port.fetch = [] ∧ (composeLine t n s).fetch.filling = s.fetch.reading := by
  have e : composeLine t n s = takeList (endFetch s) := by
    by_cases hi : n + 1 < t.h
    · obtain k | k := k
      · omega
      · have shown : (takeList (endFetch s)).loader.shownSlot = none := by
          rw [takeList_endFetch_eq, endFetch_eq]
          exact k
        rw [composeLine_inner h hi, formLine, if_neg (by simp [shown])]
    · exact composeLine_last h hi s
  rw [e, takeList_endFetch_eq, endFetch_eq]
  exact ⟨rfl, rfl, rfl, rfl⟩

/-- R73, R74, R95: the list of the next line and its fetch. -/
theorem composeLine_listed {t : Timing} {n : Nat} {s : State} (k : n + 1 < t.h) (hs : s.loader.shownSlot ≠ none) :
    (composeLine t n s).fetch.active = some (n + 1) ∧
      (composeLine t n s).comp.coming.map Listed.pos =
        ((List.range s.loader.shownTable.length).filter fun i =>
          (s.loader.shownTable[i]?).any fun w => w.dst.y ≤ n + 1 && n + 1 ≤ w.dst.y + w.dst.h - 1 && w.dst.h != 0) ∧
      ListsLine t.w (n + 1) (composeLine t n s) ∧ FetchBegun (n + 1) [] (composeLine t n s) := by
  have hl : (takeList (endFetch s)).loader = s.loader := by rw [takeList_endFetch_eq, endFetch_eq]
  have hf : (takeList (endFetch s)).port.fetch = [] := by rw [takeList_endFetch_eq, endFetch_eq]; rfl
  rw [composeLine_inner (Nat.lt_of_succ_lt k) k, ← hl]
  rw [← hl] at hs
  have shown := Option.isSome_iff_ne_none.mpr hs
  obtain ⟨lists, begun⟩ := formLine_begun (w := t.w) (y := n + 1) shown
  refine ⟨begun.active, ?_, lists, hf ▸ begun⟩
  rw [formLine_coming hs, comingList_positions]
  simp only [covers_iff]

/-- R102: the underrun count advances with a late line, up to its limit. -/
theorem bumpUnderruns_late (late : Bool) (n : Word) :
    (if late = true then bumpUnderruns n else n) = if late = true ∧ n ≠ 0xFFFFFFFF then n + 1 else n := by
  unfold bumpUnderruns
  cases late
  · rfl
  · by_cases h : n = 0xFFFFFFFF
    · rw [if_pos rfl, if_pos h, if_neg fun k => k.2 h]
    · rw [if_pos rfl, if_neg h, if_pos ⟨rfl, h⟩]

/-- Settles O28: `composeLine_active` for the exchange of the banks, `composeLine_listed` and `composeLine_unlisted` for
the list and the fetch of the next line. -/
theorem activeLineStartResult : Obligations.ActiveLineStartResult := by
  intro t lp n late s hr ho ht hl h1 h2 h3 hn hact hlate
  obtain ⟨hread, hunder, hregs, hcur, hflags, hoff, hreads⟩ := composeLine_active (s := scanLine t n s) hact
  obtain ⟨hef, her, -⟩ := endFetch_spec (s := scanLine t n s) hlate
  refine ⟨_, exec_startOfLine hr ho ht hl h1 h2 h3 hn, hread, ?_, hregs.trans her, ?_, hflags, hoff, fun k hs => ?_,
    fun k hs => ?_, (composeLine_frame t n _).2.1, ?_,
    composeLine_unlisted (s := scanLine t n s) hact⟩
  · rw [hunder, hef]
    exact bumpUnderruns_late late s.fetch.underruns
  · rw [hcur, marked_columns (fun p => skipMark (endFetch (scanLine t n s)) p.2 p.1)]
    rfl
  · obtain ⟨ha, hp, -⟩ := composeLine_listed (s := scanLine t n s) k hs
    exact ⟨ha, hp⟩
  · exact (composeLine_listed (s := scanLine t n s) k hs).2.2
  · have hport := congrArg State.port (composeLine_eq t n (scanLine t n s))
    rw [hreads] at hport
    exact hport

/-! ### The windows skipped on a line (R76) -/

/-- R76: whether a window of the list is skipped. -/
theorem skipMark_iff {s : State} {l : Listed} {w : Window} (h : s.loader.shownTable[l.pos]? = some w) (i : Nat) :
    skipMark s i l = true ↔
      (∃ sf, w.content = .surface sf) ∧ l.count ≠ 0 ∧
        (s.comp.flags.toList[l.pos]? = some true ∨ ∀ sp, s.fetch.reading[i]? = some sp → sp.status ≠ .complete) := by
  have flag : s.comp.flags.toList.getD l.pos false = true ↔ s.comp.flags.toList[l.pos]? = some true := by
    rw [List.getD_eq_getElem?_getD]
    cases s.comp.flags.toList[l.pos]? <;> simp
  have span : (!((s.fetch.reading[i]?).any fun sp => sp.status == .complete)) = true ↔
      ∀ sp, s.fetch.reading[i]? = some sp → sp.status ≠ .complete := by
    cases s.fetch.reading[i]? <;> simp
  unfold skipMark
  rw [h, Option.map_some]
  cases w.content with
  | fill c => simp
  | surface sf => simp only [Bool.and_eq_true, Bool.or_eq_true, flag, span, bne_iff_ne, Content.surface.injEq,
      exists_eq', true_and]

/-- Settles O29: the current list of `composeLine_active` carries the marks of `skipMark_iff`. -/
theorem windowsSkippedOnALine : Obligations.WindowsSkippedOnALine := by
  intro t lp s hr ho ht hl h1 h2 h3 hline hh
  refine ⟨_, exec_startOfLine hr ho ht hl h1 h2 h3 rfl, fun i l w hi hw => ?_⟩
  generalize hn : (if lp.line + 1 < t.h + t.v then lp.line + 1 else 0) = n
  have hact : n < t.h := by
    rw [← hn]
    split <;> omega
  obtain ⟨-, -, -, hcur, -⟩ := composeLine_active (s := scanLine t n s) hact
  have whole := endFetch_eq (scanLine t n s)
  have hload : (endFetch (scanLine t n s)).loader = s.loader := (congrArg State.loader whole :)
  have hcomp : (endFetch (scanLine t n s)).comp = s.comp := (congrArg State.comp whole :)
  have hread : (endFetch (scanLine t n s)).fetch.reading = s.fetch.filling := (congrArg (·.fetch.reading) whole :)
  have hk := skipMark_iff (s := endFetch (scanLine t n s)) (hload ▸ hw) i
  rw [hcomp, hread] at hk
  refine ⟨{ l with mark := skipMark (endFetch (scanLine t n s)) i l }, ?_, hk⟩
  rw [hcur, List.getElem?_map, List.getElem?_zipIdx]
  simp [scanLine, hi]

end Sys2Proof.Machine
end

section
/-! The latch point (R60, R66, R69, R70) and the lock event (R56, R67): the load they begin, and what they bring the paint
engine. -/

namespace Sys2Proof.Machine

/-! ### What a latch point brings the loader and the paint engine -/

theorem LoadsIfAllowed.congr {s u v : State} (k : LoadsIfAllowed s u) (hl : v.loader = u.loader)
    (hp : v.port.loader = u.port.loader) : LoadsIfAllowed s v := by
  unfold LoadsIfAllowed
  rw [hl, hp]
  exact k

/-- R8, R117, R142: a load begun and the engine's latch point, taken in `g`, which differs from `s` in the registers, the
scan and the status writer alone. -/
def latchLoad (counted : Bool) (g : State) : State :=
  latchPaint counted (beginLoad g)

theorem beginLoad_changes (g : State) :
    ∃ l bl, beginLoad g = { g with loader := l, port := { g.port with loader := bl } } :=
  ⟨_, _, beginLoad_eq g⟩

/-- The whole state: the loader, the engine and the bursts of both are all that changes. -/
theorem latchLoad_changes (counted : Bool) (g : State) :
    ∃ l p bl bp, latchLoad counted g =
      { g with loader := l, paint := p, port := { g.port with loader := bl, paint := bp } } := by
  obtain ⟨l, bl, e⟩ := beginLoad_changes g
  obtain ⟨p, bp, e'⟩ := latchPaint_issues counted (beginLoad g)
  exact ⟨l, p, bl, bp, by rw [latchLoad, e', e]⟩

section
variable {s g : State} (counted : Bool) (hl : g.loader = s.loader) (hp : g.port = s.port) (hf : g.fault = s.fault)
  (hm : g.regs.runMode = s.regs.runMode) (hd : g.regs.dirBase = s.regs.dirBase) (he : g.paint = s.paint)
include hl hp hf hm hd

theorem latchLoad_loads (ho : g.scan.output = .running) : LoadsIfAllowed s (latchLoad counted g) :=
  (beginLoad_loads hl (congrArg Port.loader hp) hf hm hd ho).congr (latchPaint_paintOnly counted _).loader
    (latchPaint_paintOnly counted _).ploader

include he
omit hl hf hm hd

theorem beginLoad_paint : (beginLoad g).paint = s.paint ∧ (beginLoad g).port.paint = s.port.paint ∧
    (beginLoad g).port.write = s.port.write := by
  obtain ⟨l, bl, e⟩ := beginLoad_changes g
  rw [e, ← hp]
  exact ⟨he, rfl, rfl⟩

theorem latchLoad_other (h1 : s.paint.engine ≠ .atTail) (h2 : s.paint.engine ≠ .waiting) :
    (latchLoad counted g).paint = s.paint ∧ (latchLoad counted g).port.paint = s.port.paint := by
  obtain ⟨ep, eb, -⟩ := beginLoad_paint hp he
  rw [latchLoad, latchPaint_other (by rwa [ep]) (by rwa [ep])]
  exact ⟨ep, eb⟩

include hd in
theorem latchLoad_reread (h : s.paint.engine = .atTail) : TailReread s (latchLoad counted g) := by
  obtain ⟨ep, eb, -⟩ := beginLoad_paint hp he
  have hr : (beginLoad g).regs.dirBase = s.regs.dirBase := by rw [beginLoad_eq]; exact hd
  exact (latchPaint_reread counted (by rwa [ep])).congr ep.symm eb.symm hr.symm rfl rfl

theorem latchLoad_tested {h : Held} (hh : s.paint.held = some h) : FenceTested h s (latchLoad false g) := by
  obtain ⟨ep, eb, ew⟩ := beginLoad_paint hp he
  exact (latchPaint_tested (ep ▸ hh)).congr ep.symm eb.symm ew.symm rfl rfl rfl rfl

end

theorem finish_fenceCount (f : FinalStatus) (s : State) : (finish f s).paint.fenceCount = s.paint.fenceCount := by
  rw [finish, tryFinish_paint]
  rfl

/-- R67: a latch point that does not count leaves the fence count. -/
theorem latchPaint_fenceCount (s : State) : (latchPaint false s).paint.fenceCount = s.paint.fenceCount := by
  unfold latchPaint
  split
  · rw [(rereadTail_reread s).1]
  · split
    · unfold latchFence
      split
      · split
        · exact finish_fenceCount _ s
        · rfl
      · rfl
    · rfl

/-! ### The latch point (R60, R66) -/

theorem mask_parked : Event.parked.mask = 0x040 := by decide

theorem exec_latchPoint {t : Timing} {lp : LinePos} {s : State} (hr : s.resetHeld = false)
    (ht : s.scan.timing = some t) (hl : s.scan.line = some lp) (hd : lp.latchDue = true) :
    (s.scan.output = .running → exec .latchPoint s = .next (latchRunning t lp s)) ∧
      (s.scan.output = .parking → exec .latchPoint s = .next (latchParking lp s)) := by
  refine ⟨fun ho => (live_running hr).trans ?_, fun ho => (live_running hr).trans ?_⟩ <;>
    simp [latch, ht, hl, hd, ho]

theorem latchRunning_eq (t : Timing) (lp : LinePos) (s : State) :
    latchRunning t lp s = askBlock (latchLoad true (decideMark t (advanceFrame lp s))) := rfl

theorem latchParking_eq (lp : LinePos) (s : State) :
    latchParking lp s =
      { s with
        regs := { s.regs with events := s.regs.events ||| 0x040 }
        scan := (latchParking lp s).scan, paint := (latchPaint true (advanceFrame lp s)).paint,
        writer := { s.writer with wantBlock := true }
        port := { s.port with paint := (latchPaint true (advanceFrame lp s)).port.paint } } := by
  obtain ⟨p, bs, e⟩ := latchPaint_issues true (advanceFrame lp s)
  rw [latchParking, e, ← mask_parked]
  rfl

/-- Settles O30: a latch point in RUNNING is a `latchLoad` with the mark decided, one in PARKING the engine's latch point
and the park. -/
theorem latchPointResult : Obligations.LatchPointResult := by
  intro t lp s hr ht hl hd
  obtain ⟨running, parking⟩ := exec_latchPoint hr ht hl hd
  refine ⟨fun ho => ⟨_, running ho, ?_, ?_, ?_, ?_, ?_⟩, fun ho => ⟨_, parking ho, ?_, ?_, ?_, ?_⟩⟩
  · rw [latchRunning_scan, decideMark_scan]
    rfl
  · obtain ⟨l, p, bl, bp, e⟩ := latchLoad_changes true (decideMark t (advanceFrame lp s))
    rw [latchRunning_eq, e]
    rfl
  · exact (latchLoad_loads true (g := decideMark t (advanceFrame lp s)) rfl rfl rfl rfl rfl
      (by rw [decideMark_scan]; exact ho)).congr rfl rfl
  · exact fun he => (latchLoad_reread true (g := decideMark t (advanceFrame lp s)) rfl rfl rfl he).congr rfl rfl rfl rfl rfl
  · exact latchLoad_other true (g := decideMark t (advanceFrame lp s)) rfl rfl
  · rw [latchParking_scan]
    rfl
  · exact latchParking_eq lp s
  · exact fun he => (latchPaint_reread true (s := advanceFrame lp s) he).congr rfl rfl rfl rfl rfl
  · intro h1 h2
    rw [latchParking_eq, latchPaint_other (s := advanceFrame lp s) h1 h2]
    exact ⟨rfl, rfl⟩

/-! ### The lock event (R56, R67) -/

theorem mask_locked : Event.locked.mask = 0x020 := by decide

/-- The output RUNNING at the start of line H, before the latch point of this line start (R56). -/
def lockedState (t : Timing) (s : State) : State :=
  raise .locked
    (setOutput .running
      ((endLocking s).modScan fun c =>
        { c with line := some { line := t.h, period := 0, latchDue := false, openDue := t.v == 1 } }))

theorem enterRunning_eq (t : Timing) (s : State) : enterRunning t s = latchLoad false (lockedState t s) := rfl

/-- Settles O26: the entry to RUNNING is a `latchLoad` that does not count, in `lockedState`. -/
theorem lockEventResult : Obligations.LockEventResult := by
  intro s hr
  have run (c : Bool) : exec (.lockEvent c) s = .next (lockTaken c s) := live_running hr
  refine ⟨fun t ht ho hp => ?_, fun c hn => ?_⟩
  · have e : lockTaken true s = latchLoad false (lockedState t s) := by simp [lockTaken, ht, ho, hp, enterRunning_eq]
    obtain ⟨l, p, bl, bp, whole⟩ := latchLoad_changes false (lockedState t s)
    refine ⟨_, run true, ?_⟩
    rw [e]
    refine ⟨?_, ?_, ?_, latchLoad_loads false rfl rfl rfl rfl rfl rfl, ?_, latchLoad_reread false rfl rfl rfl,
      latchLoad_other false rfl rfl, fun h => latchLoad_tested (s := s) (g := lockedState t s) rfl rfl⟩
    · rw [whole]
      rfl
    · rw [whole, ← mask_locked]
      rfl
    · rw [whole]
      rfl
    · exact (latchPaint_fenceCount _).trans (congrArg Paint.fenceCount (beginLoad_paint (s := s) (g := lockedState t s) rfl rfl).1 :)
  · rw [run, lockTaken, if_neg]
    rintro ⟨hc, ho, hp⟩
    rcases hn with hn | hn | hn
    · exact absurd (hc.symm.trans hn) Bool.noConfusion
    · exact hn ho
    · exact hn hp

end Sys2Proof.Machine
end

section
/-! The frame open (R18 to R20, R68, R84 to R88): the take-over and the run-on, with the list and the fetch of line 0. -/

namespace Sys2Proof.Machine

theorem exec_frameOpen {t : Timing} {lp : LinePos} {s : State} (hr : s.resetHeld = false)
    (ho : s.scan.output.sends = true) (ht : s.scan.timing = some t) (hl : s.scan.line = some lp)
    (h1 : lp.latchDue = false) (h2 : lp.openDue = true) : exec .frameOpen s = .next (openFrame t lp s) :=
  (live_running hr).trans (by rw [frameOpens_taken ho ht hl h1 h2])

/-- R73, R95: a list formed in the whole state. -/
theorem formLine_shown {w y : Nat} {s : State} (h : s.loader.shownSlot.isSome = true) :
    ∃ c fl pf, formLine w y s =
      { s with
        comp := { s.comp with coming := c }
        fetch := { s.fetch with active := some y, filling := fl }
        port := { s.port with fetch := pf } } := by
  rw [formLine, if_pos h]
  exact ⟨_, _, _, rfl⟩

/-! ### The run-on (R20, R85, R88) -/

theorem openFrame_runs {t : Timing} {lp : LinePos} {s : State} (h : s.loader.staged = none) :
    openFrame t lp s = formLine t.w 0 (clearFlags (runOn (openTaken lp s))) := by
  unfold openFrame
  rw [h]

/-- R20, R85, R88: the shown scene run on, its flags cleared, before the list of line 0. -/
theorem runOn_shown {s : State} (h : s.loader.shownSlot ≠ none) :
    clearFlags (runOn s) =
      { s with
        loader := { s.loader with framesShown := if s.loader.framesShown < 255 then s.loader.framesShown + 1 else 255 }
        comp :=
          { s.comp with
            offsets := List.zipWith advanceOffset s.loader.shownTable s.comp.offsets, flags := Vector.replicate 16 false } } := by
  have count : min 255 (s.loader.framesShown + 1) =
      if s.loader.framesShown < 255 then s.loader.framesShown + 1 else 255 := by split <;> omega
  rw [runOn, if_pos (Option.isSome_iff_ne_none.mpr h), ← count]
  rfl

theorem runOn_unshown {s : State} (h : s.loader.shownSlot = none) : runOn s = s :=
  if_neg (by simp [h])

/-- R85: a run-on advances every offset of the shown table. -/
theorem advances_zipWith {ws : List Window} {os : List (Option Offset)} {i : Nat} {w : Window} {o : Option Offset}
    (hw : ws[i]? = some w) (ho : os[i]? = some o) :
    ∃ o', (List.zipWith advanceOffset ws os)[i]? = some o' ∧ Advances w o o' :=
  ⟨_, by rw [List.getElem?_zipWith, hw, ho], advanceOffset_advances w o⟩

/-- Settles O32: the run-on by `runOn_shown`, the list and the fetch by `formLine_begun`. -/
theorem frameOpenRunsOn : Obligations.FrameOpenRunsOn := by
  intro t lp s hr ho ht hl h1 h2 hs
  refine ⟨_, exec_frameOpen hr ho ht hl h1 h2, openFrame_scan t lp s, ?_⟩
  rw [openFrame_runs hs]
  by_cases shown : s.loader.shownSlot = none
  · rw [runOn_unshown (s := openTaken lp s) shown]
    have still : formLine t.w 0 (clearFlags (openTaken lp s)) = clearFlags (openTaken lp s) := by
      obtain ⟨-, -, -, -, -, -, -, -, -, -, -, k⟩ := formLine_frame t.w 0 (clearFlags (openTaken lp s))
      exact k shown
    rw [still]
    exact ⟨rfl, fun k => absurd shown k, fun _ => ⟨rfl, rfl, rfl, rfl, rfl⟩⟩
  · obtain ⟨v, hv⟩ : ∃ v, v = clearFlags (runOn (openTaken lp s)) := ⟨_, rfl⟩
    have e := hv.trans (runOn_shown (s := openTaken lp s) shown)
    have hslot : v.loader.shownSlot.isSome = true := by
      rw [e]
      exact Option.isSome_iff_ne_none.mpr shown
    have hp : v.port.fetch = s.port.fetch := by rw [hv, runOn_shown (s := openTaken lp s) shown]; rfl
    obtain ⟨lists, begun⟩ := formLine_begun (w := t.w) (y := 0) hslot
    obtain ⟨c, fl, pf, whole⟩ := formLine_shown (w := t.w) (y := 0) hslot
    rw [← hv]
    refine ⟨?_, fun _ => ⟨?_, ?_, ?_, fun i w o hw hoff => ?_, lists, hp ▸ begun⟩, fun k => absurd k shown⟩
    · rw [whole, e]
      rfl
    · rw [whole, e]
      rfl
    · rw [whole, e]
      rfl
    · rw [whole, e]
      rfl
    · rw [whole, e]
      exact advances_zipWith hw hoff

/-! ### The take-over (R18, R19, R84, R88) -/

theorem openFrame_takes {t : Timing} {lp : LinePos} {st : Staged} {s : State} (h : s.loader.staged = some st) :
    openFrame t lp s = retestHold (testFence (formLine t.w 0 (clearFlags (takeOver st (openTaken lp s))))) := by
  unfold openFrame
  rw [h]

theorem slotWordBurst_eq (s : State) (n : Slot) (state : Byte) (code : Code) (seq : Word) (asks : Bool) :
    slotWordBurst s n state code seq asks =
      burstAt (.slotWrite n seq asks) (s.regs.dirBase.toNat + 0x20 + 32 * n.val) 4 [state, code.toByte, 0, 0] := by
  rw [slotWordBurst, controlAddr, Nat.add_assoc]

theorem mask_sceneTaken : Event.sceneTaken.mask = 0x001 := by decide

/-- R18, R19, R84, R88: the take-over in the whole state, before the list of line 0. -/
theorem takeOver_eq (st : Staged) (s : State) :
    clearFlags (takeOver st s) =
      { s with
        regs := { s.regs with events := s.regs.events ||| 0x001 }
        loader :=
          { s.loader with
            shownTable := s.loader.stagedTable, stagedTable := [], shownSlot := some st.slot, shownSeq := st.seq,
            shownMin := st.minFrames, shownBg := st.bg, hasShown := true, framesShown := 1, staged := none,
            inView := viewEntries s.loader.stagedTable }
        comp :=
          { s.comp with offsets := s.loader.stagedTable.map startOffset, flags := Vector.replicate 16 false }
        writer :=
          if (s.port.loader ++ takeOverWrites st s).head?.any Burst.asks then { s.writer with wantBlock := true }
          else s.writer
        port := { s.port with loader := firstIssued (s.port.loader ++ takeOverWrites st s) } } := by
  rw [takeOver, settleLoader_spec, ← mask_sceneTaken]
  simp only [clearFlags, resetOffsets, raise, recomputeView, showStaged, issueLoader, State.modComp, State.modRegs,
    State.modLoader, State.modPort, Regs.raise, viewEntries, List.filterMap_nil, List.append_nil]
  rfl

theorem takeOverWrites_eq (st : Staged) (s : State) :
    takeOverWrites st s =
      st.skip.map (fun n =>
          burstAt (.slotWrite n st.seq false) (s.regs.dirBase.toNat + 0x20 + 32 * n.val) 4 [5, 0, 0, 0]) ++
        s.loader.shownSlot.toList.map (fun n =>
          burstAt (.slotWrite n st.seq false) (s.regs.dirBase.toNat + 0x20 + 32 * n.val) 4 [3, 0, 0, 0]) ++
        [burstAt (.slotWrite st.slot st.seq true) (s.regs.dirBase.toNat + 0x20 + 32 * st.slot.val) 4 [2, 0, 0, 0]] := by
  simp only [takeOverWrites, slotWordBurst_eq, Code.toByte]

/-- R140, R142: the tests a take-over brings the paint engine, from `v` on. -/
theorem takeOver_tests {v : State} {h : Held} (hh : v.paint.held = some h) :
    FenceTested h v (retestHold (testFence v)) ∧
      (v.paint.engine = .held → HoldTested h v (retestHold (testFence v))) := by
  refine ⟨fun c w o he => ?_, fun he => ?_⟩
  · rw [retestHold_other (testFence_waiting he)]
    exact testFence_tested hh c w o he
  · rw [testFence_other (by simp [he])]
    exact retestHold_tested he hh

/-- Settles O31: the take-over by `takeOver_eq`, the list and the fetch by `formLine_begun`, the two tests by
`takeOver_tests`. -/
theorem frameOpenTakesOver : Obligations.FrameOpenTakesOver := by
  intro t lp st s hr ho ht hl h1 h2 hs
  refine ⟨_, exec_frameOpen hr ho ht hl h1 h2, openFrame_scan t lp s, ?_⟩
  rw [openFrame_takes hs]
  obtain ⟨v, hv⟩ : ∃ v, v = clearFlags (takeOver st (openTaken lp s)) := ⟨_, rfl⟩
  have e := hv.trans (takeOver_eq st (openTaken lp s))
  have hslot : v.loader.shownSlot.isSome = true := by rw [e]; rfl
  have hpf : v.port.fetch = s.port.fetch := by rw [e]; rfl
  obtain ⟨lists, begun⟩ := formLine_begun (w := t.w) (y := 0) hslot
  obtain ⟨c, fl, pf, formed⟩ := formLine_shown (w := t.w) (y := 0) hslot
  have hp : (formLine t.w 0 v).paint = s.paint := by rw [formed, e]; rfl
  have hb : (formLine t.w 0 v).port.paint = s.port.paint := by rw [formed, e]; rfl
  have hw : (formLine t.w 0 v).port.write = s.port.write := by rw [formed, e]; rfl
  rw [← hv]
  obtain ⟨p, bs, whole⟩ := (testFence_issues (formLine t.w 0 v)).trans (retestHold_issues _)
  refine ⟨?_, ?_, ?_, fun i w hi => ?_, ?_, ?_, fun h hh => ?_, fun k1 k2 => ?_⟩
  · rw [whole, formed, e]
    rfl
  · rw [whole, formed, e]
    rfl
  · rw [List.append_assoc, List.append_assoc, ← List.append_assoc (st.skip.map _)]
    have writes := takeOverWrites_eq st (openTaken lp s)
    rw [whole, formed, e, writes]
    exact ⟨rfl, rfl⟩
  · rw [whole, formed, e]
    exact ⟨startOffset w, by simp [openTaken, hi], startOffset_starts w⟩
  · exact lists.congr (by rw [whole]) (by rw [whole])
  · exact hpf ▸ begun.congr (by rw [whole]) (by rw [whole]) (by rw [whole]) (by rw [whole])
  · obtain ⟨fence, hold⟩ := takeOver_tests (v := formLine t.w 0 v) (hp ▸ hh)
    exact ⟨fence.congr hp.symm hb.symm hw.symm rfl rfl rfl rfl, fun k => (hold (hp ▸ k)).congr hp.symm hb.symm rfl rfl rfl⟩
  · rw [testFence_other (by rwa [hp]), retestHold_other (by rwa [hp])]
    exact ⟨hp, hb⟩

end Sys2Proof.Machine
end


section
/-! Slot writes, span bursts, fault reports and the status writer (R99, R103, R148 to R156, R187, R188). -/

namespace Sys2Proof.Machine

/-! ### Slot writes answered -/

theorem answerSlotWrite_ok {b : Burst} {data : List Byte} {n : Slot} {seq : Word} {asks : Bool} {s : State}
    (hk : b.kind = .slotWrite n seq asks) : answerSlotWrite b (some data) s = s := by
  unfold answerSlotWrite
  rw [hk]

theorem answerSlotWrite_failed {b : Burst} {n : Slot} {seq : Word} {asks : Bool} {s : State}
    (hk : b.kind = .slotWrite n seq asks) :
    answerSlotWrite b none s = reportScene .busFault (some n) none seq b.addr s := by
  unfold answerSlotWrite
  rw [hk]

/-- An OK answer fits every write, whatever it carries (R164). -/
theorem responseFits_write {b : Burst} (data : List Byte) (hw : b.kind.isWrite = true) :
    responseFits b (.ok data) = true := by
  simp [responseFits, hw]

/-- Settles O39. -/
theorem slotWriteResult : Obligations.SlotWriteResult := by
  intro tag data b n seq asks s ha hk
  have hw : b.kind.isWrite = true := by rw [hk]; rfl
  constructor
  · exact (respond_awaited answerSlotWrite ha (responseFits_write data hw)).trans (congrArg _ (answerSlotWrite_ok hk))
  · exact (respond_error answerSlotWrite ha).trans (congrArg _ (answerSlotWrite_failed hk))

/-! ### Span bursts answered -/

theorem answerSpan_ok {b : Burst} {data : List Byte} {line place off : Nat} {s : State}
    (hk : b.kind = .span line place off) : answerSpan b (some data) s = placeBytes place off data s := by
  unfold answerSpan
  rw [hk]

theorem answerSpan_failed {b : Burst} {line place off : Nat} {s : State} (hk : b.kind = .span line place off) :
    answerSpan b none s = faultSpan place b.addr s := by
  unfold answerSpan
  rw [hk]

theorem modify_eq_set_of_getElem? {α : Type} {l : List α} {i : Nat} {a : α} (f : α → α) (h : l[i]? = some a) :
    l.modify i f = l.set i (f a) := by
  rw [List.modify_eq_set_getElem?, h]
  rfl

theorem mask_fetchFault : Event.fetchFault.mask = 0x010 := by decide

/-- R103: an ERROR on a burst of the span `sp`. -/
theorem faultSpan_eq {place : Nat} {addr : Word} {sp : Span} {s : State} (h : s.fetch.filling[place]? = some sp) :
    faultSpan place addr s =
      { s with
        regs := { s.regs with events := s.regs.events ||| 0x010 }
        comp := { s.comp with flags := s.comp.flags.setIfInBounds sp.pos true }
        fetch := { s.fetch with filling := s.fetch.filling.set place { sp with status := .errored } }
        fault :=
          { s.fault with
            reports :=
              s.fault.reports ++
                [{ source := .fetch, code := .busFault, slot := s.loader.shownSlot, window := some sp.pos,
                   seq := s.loader.shownSeq, addr := addr }] }
        port :=
          { s.port with
            fetch := s.port.fetch.filter fun c => !c.kind.ofSpan place,
            reads :=
              s.port.reads.map fun pl =>
                if pl.burst.kind.ofSpan place then { pl with burst := { pl.burst with dropped := true } } else pl } } := by
  unfold faultSpan
  simp only [h]
  rw [← mask_fetchFault, ← modify_eq_set_of_getElem? (fun sp => { sp with status := .errored }) h]
  rfl

/-- Settles O40. -/
theorem spanBurstResult : Obligations.SpanBurstResult := by
  intro tag line place off data b sp s ha hk hl hsp
  have at_place : (freed tag s).fetch.filling[place]? = some sp := hsp
  refine ⟨⟨_, (respond_ok answerSpan ha hl).trans (congrArg _ (answerSpan_ok hk)), rfl, ?_⟩, ?_⟩
  · refine (modify_eq_set_of_getElem? _ at_place).trans ?_
    simp only [Nat.sub_eq_zero_iff_le]
    rfl
  · refine ⟨_, (respond_error answerSpan ha).trans (congrArg _ ((answerSpan_failed hk).trans (faultSpan_eq at_place))),
      rfl, fun i hi => ?_, fun hp => ?_, rfl, rfl⟩
    · simp [freed, Vector.toList_setIfInBounds, hi.symm]
    · simp [Vector.toList_setIfInBounds, hp]

/-! ### Fault reports -/

theorem find_source {src : Source} {r : Report} {pre post : List Report} (hs : r.source = src)
    (hp : ∀ q ∈ pre, q.source ≠ src) : ((pre ++ r :: post).find? fun q => q.source == src) = some r := by
  rw [List.find?_append, List.find?_eq_none.mpr fun q hq => by simpa using hp q hq]
  simp [hs]

theorem eraseP_source {src : Source} {r : Report} {pre post : List Report} (hs : r.source = src)
    (hp : ∀ q ∈ pre, q.source ≠ src) : ((pre ++ r :: post).eraseP fun q => q.source == src) = pre ++ post := by
  rw [List.eraseP_append_right _ fun q hq => by simpa using hp q hq]
  simp [hs]

theorem takeReport_eq {src : Source} {r : Report} {pre post : List Report} {s : State}
    (hl : s.fault.reports = pre ++ r :: post) (hs : r.source = src) (hp : ∀ q ∈ pre, q.source ≠ src) :
    takeReport src s =
      if s.fault.latch then countReport { s with fault := { s.fault with reports := pre ++ post } }
      else latchReport r { s with fault := { s.fault with reports := pre ++ post } } := by
  unfold takeReport
  rw [hl, find_source hs hp]
  dsimp only [State.modFault]
  rw [hl, eraseP_source hs hp]

theorem mask_errorLatched : Event.errorLatched.mask = 0x400 := by decide

/-- Settles O49. -/
theorem faultReportResult : Obligations.FaultReportResult := by
  intro src r pre post s t hr hl hs hp ht
  have run : exec (.faultReport src) s = .next (takeReport src s) := live_running hr
  rw [run, takeReport_eq hl hs hp, ← ht]
  refine ⟨fun h => ?_, fun h k => ?_, fun h k => ?_⟩
  · rw [h, ← mask_errorLatched, ht, ← hs]
    rfl
  · rw [h, if_pos rfl, countReport, if_pos (by rwa [ht]), ht]
    rfl
  · rw [h, if_pos rfl, countReport, if_neg (by rw [ht]; exact Nat.not_lt.mpr k)]

/-! ### The status writer -/

theorem recordBytes : RecordBytes where
  codes := by decide
  everyCode c := by cases c <;> decide
  sources := by decide
  noSlot := rfl
  slot _ := rfl
  noWindow := rfl
  window _ := rfl

theorem beginBlock_begins {s : State} (hb : s.writer.busy = false) (h1 : s.writer.wantBlock = true)
    (h2 : s.writer.wantRecord = false) (h3 : s.writer.wantCount = false) :
    beginBlock s =
      issueStatus (blockBursts (s.writer.update + 1) s)
        (s.modWriter fun w => { w with update := w.update + 1, wantBlock := false, busy := true }) := by
  rw [beginBlock, if_pos (by simp [hb, h1, h2, h3])]

theorem beginBlock_waits {s : State}
    (h : s.writer.busy = true ∨ s.writer.wantBlock = false ∨ s.writer.wantRecord = true ∨ s.writer.wantCount = true) :
    beginBlock s = s := by
  rw [beginBlock, if_neg]
  rcases h with h | h | h | h <;> simp [h]

theorem beginRecord_begins {s : State} (hb : s.writer.busy = false) (h1 : s.writer.wantRecord = true) :
    beginRecord s =
      issueStatus (recordBursts s)
        (s.modWriter fun w => { w with wantRecord := false, wantCount := false, busy := true }) := by
  rw [beginRecord, if_pos (by simp [hb, h1])]

theorem beginRecord_waits {s : State} (h : s.writer.busy = true ∨ s.writer.wantRecord = false) : beginRecord s = s := by
  rw [beginRecord, if_neg]
  rcases h with h | h <;> simp [h]

theorem beginCount_begins {s : State} (hb : s.writer.busy = false) (h1 : s.writer.wantCount = true)
    (h2 : s.writer.wantRecord = false) :
    beginCount s = issueStatus [countBurst s] (s.modWriter fun w => { w with wantCount := false, busy := true }) := by
  rw [beginCount, if_pos (by simp [hb, h1, h2])]

theorem beginCount_waits {s : State}
    (h : s.writer.busy = true ∨ s.writer.wantCount = false ∨ s.writer.wantRecord = true) : beginCount s = s := by
  rw [beginCount, if_neg]
  rcases h with h | h | h <;> simp [h]

theorem answerStatus_eq (b : Burst) (a : Answer) (s : State) :
    answerStatus b a s = if s.port.status = [] then { s with writer := { s.writer with busy := false } } else s := by
  rw [answerStatus]
  simp only [List.isEmpty_iff]
  rfl

/-- R156: both answers to a write of the status writer. -/
theorem exec_statusWriterResponse {tag : Nat} {b : Burst} {r : Response} {s : State}
    (ha : Awaits BurstKind.isStatus tag b s) (hr : r = .ok [] ∨ r = .error) :
    ∃ a, exec (.statusWriterResponse tag r) s = .next (answerStatus b a (freed tag s)) := by
  have hk : b.kind = .status := (burstKinds.statusWrite b.kind).mp (awaits_kind ha)
  rcases hr with rfl | rfl
  · exact ⟨_, respond_written answerStatus ha (by rw [hk]; rfl)⟩
  · exact ⟨_, respond_error answerStatus ha⟩

/-- R155, R187: the bursts of an error record write, field by field. -/
theorem recordBursts_eq (s : State) :
    recordBursts s =
      if s.fault.record.code = .none then
        [burstAt .status (s.regs.dirBase.toNat + 0xC0) 4
          [0, sourceByte s.fault.record.source, slotByte s.fault.record.slot, windowByte s.fault.record.window],
         burstAt .status (s.regs.dirBase.toNat + 0xD0) 4 [0, 0, 0, 0]]
      else
        [burstAt .status (s.regs.dirBase.toNat + 0xC0) 16
          ([s.fault.record.code.toByte, sourceByte s.fault.record.source, slotByte s.fault.record.slot,
            windowByte s.fault.record.window] ++
            le32 s.fault.record.seq ++ le32 s.fault.record.addr ++ le32 s.fault.record.frame),
         burstAt .status (s.regs.dirBase.toNat + 0xD0) 4 (le32 (BitVec.ofNat 32 s.fault.later))] := by
  unfold recordBursts
  have zero : le32 0 = [0, 0, 0, 0] := by decide
  split
  next h => rw [recordWord, h, zero]; rfl
  next => rfl

/-- Settles O50. -/
theorem statusWriterResult : Obligations.StatusWriterResult := by
  refine ⟨recordBytes, fun n s hr hn => ?_⟩
  have block : exec .statusBlockWrite s = .next (beginBlock s) := live_running hr
  have record : exec .errorRecordWrite s = .next (beginRecord s) := live_running hr
  have count : exec .countWrite s = .next (beginCount s) := live_running hr
  rw [block, record, count]
  subst hn
  refine ⟨fun hb => ⟨fun h1 h2 h3 => ?_, fun h1 => ?_, fun h1 h2 => ?_⟩, fun h => ?_, fun h => ?_, fun h => ?_,
    fun h => ?_, fun tag b r ha h => ?_⟩
  · rw [beginBlock_begins hb h1 h2 h3]
    cases hs : s.loader.shownSlot <;> cases ht : s.scan.timing <;>
      simp only [blockBursts, blockFields, hs, ht] <;> rfl
  · rw [beginRecord_begins hb h1, ← recordBursts_eq]
    rfl
  · rw [beginCount_begins hb h1 h2]
    rfl
  · rw [beginBlock_waits (.inr h)]
  · rw [beginRecord_waits (.inr h)]
  · rw [beginCount_waits (.inr h)]
  · exact ⟨congrArg _ (beginBlock_waits (.inl h)), congrArg _ (beginRecord_waits (.inl h)),
      congrArg _ (beginCount_waits (.inl h))⟩
  · obtain ⟨a, e⟩ := exec_statusWriterResponse ha h
    rw [e, answerStatus_eq]
    rfl

end Sys2Proof.Machine
end


section
/-! Runs of bytes cut into bursts (R161). -/

namespace Sys2Proof.Machine

/-- R161: the beats that a burst touches. -/
theorem beatBytes_eq {b : Burst} (h : 1 ≤ b.len) :
    beatBytes b = 8 * ((b.addr.toNat + b.len - 1) / 8 - b.addr.toNat / 8 + 1) := by
  unfold beatBytes
  omega

theorem cutRun_zero (fuel a : Nat) : cutRun fuel a 0 = [] := by
  cases fuel <;> rfl

theorem cutRun_succ {n : Nat} (fuel a : Nat) (h : n ≠ 0) :
    cutRun (fuel + 1) a n =
      (a, min n (64 - a % 64)) :: cutRun fuel (a + min n (64 - a % 64)) (n - min n (64 - a % 64)) := by
  rw [cutRun, if_neg h]

/-- The parts that are left to cut are few enough for the fuel. -/
def EnoughFuel (fuel a n : Nat) : Prop :=
  n = 0 ∨ a % 64 + n ≤ 64 * fuel

theorem enoughFuel_run (a n : Nat) : EnoughFuel (n / 64 + 2) a n := by
  unfold EnoughFuel
  omega

theorem EnoughFuel.step {fuel a n : Nat} (h : EnoughFuel (fuel + 1) a n) :
    EnoughFuel fuel (a + min n (64 - a % 64)) (n - min n (64 - a % 64)) := by
  unfold EnoughFuel at *
  omega

theorem not_enoughFuel {a n : Nat} (hn : n ≠ 0) : ¬EnoughFuel 0 a n := by
  unfold EnoughFuel
  omega

/-- R161: the parts together are as long as the run. -/
theorem cutRun_sum {fuel a n : Nat} (h : EnoughFuel fuel a n) : ((cutRun fuel a n).map Prod.snd).sum = n := by
  induction fuel generalizing a n with
  | zero =>
    by_cases hn : n = 0
    · rw [hn]; rfl
    · exact absurd h (not_enoughFuel hn)
  | succ fuel ih =>
    by_cases hn : n = 0
    · rw [hn, cutRun_zero]; rfl
    · rw [cutRun_succ fuel a hn, List.map_cons, List.sum_cons, ih h.step]
      omega

/-- R161: one part of the run of `n` bytes from `a`: it begins `before` bytes into the run, crosses no multiple of 64, and
ends at one when it is not the last. -/
structure PartOfRun (a n before : Nat) (last : Prop) (p : Nat × Nat) : Prop where
  starts : p.1 = a + before
  filled : 1 ≤ p.2
  whole : p.1 / 64 = (p.1 + p.2 - 1) / 64
  inside : before + p.2 ≤ n
  ends : ¬last → (p.1 + p.2) % 64 = 0

theorem cutRun_part {fuel a n i : Nat} {p : Nat × Nat} (h : (cutRun fuel a n)[i]? = some p) :
    PartOfRun a n (((cutRun fuel a n).take i).map Prod.snd).sum (i + 1 = (cutRun fuel a n).length) p := by
  induction fuel generalizing a n i with
  | zero => exact absurd h (by simp [cutRun])
  | succ fuel ih =>
    by_cases hn : n = 0
    · rw [hn, cutRun_zero] at h
      exact absurd h (by simp)
    · rw [cutRun_succ fuel a hn] at h ⊢
      cases i with
      | zero =>
        obtain rfl := Option.some.inj h
        refine ⟨rfl, by dsimp only; omega, by dsimp only; omega, by simp, fun more => ?_⟩
        have rest : n - min n (64 - a % 64) ≠ 0 := fun none => more (by rw [none, cutRun_zero]; rfl)
        dsimp only
        omega
      | succ i =>
        obtain ⟨starts, filled, whole, inside, ends⟩ := ih h
        simp only [List.take_succ_cons, List.map_cons, List.sum_cons, List.length_cons, Nat.add_right_cancel_iff]
        exact ⟨by omega, filled, whole, by omega, ends⟩

/-- R161: the parts of the data, one after another, are the data. -/
theorem cutRun_data {fuel a n a0 : Nat} (data : List Byte) (ha : a0 ≤ a) (h : EnoughFuel fuel a n) :
    ((cutRun fuel a n).map fun p => (data.drop (p.1 - a0)).take p.2).flatten = (data.drop (a - a0)).take n := by
  induction fuel generalizing a n with
  | zero =>
    by_cases hn : n = 0
    · rw [hn, List.take_zero]; rfl
    · exact absurd h (not_enoughFuel hn)
  | succ fuel ih =>
    by_cases hn : n = 0
    · rw [hn, cutRun_zero, List.take_zero]; rfl
    · rw [cutRun_succ fuel a hn, List.map_cons, List.flatten_cons, ih (ha.trans (Nat.le_add_right _ _)) h.step]
      have next : a + min n (64 - a % 64) - a0 = a - a0 + min n (64 - a % 64) := by omega
      have both : min n (64 - a % 64) + (n - min n (64 - a % 64)) = n := by omega
      rw [next, ← List.drop_drop, ← List.take_add, both]

theorem runBursts_lens (kind : Nat → BurstKind) (a n : Nat) (data : List Byte) :
    (runBursts kind a n data).map Burst.len = (cutRun (n / 64 + 2) a n).map Prod.snd := by
  rw [runBursts, List.map_map]
  rfl

theorem runBursts_sum (kind : Nat → BurstKind) (a n : Nat) (data : List Byte) :
    ((runBursts kind a n data).map Burst.len).sum = n := by
  rw [runBursts_lens, cutRun_sum (enoughFuel_run a n)]

theorem runBursts_data {kind : Nat → BurstKind} {a n : Nat} {data : List Byte} (h : data = [] ∨ data.length = n) :
    ((runBursts kind a n data).map Burst.data).flatten = data := by
  have parts : (runBursts kind a n data).map Burst.data =
      (cutRun (n / 64 + 2) a n).map fun p => (data.drop (p.1 - a)).take p.2 := by
    rw [runBursts, List.map_map]
    rfl
  rw [parts, cutRun_data data le_rfl (enoughFuel_run a n), Nat.sub_self, List.drop_zero]
  rcases h with rfl | rfl
  · exact List.take_nil
  · exact List.take_length

/-- R161: a burst of a run is made of one part of it. -/
theorem runBursts_part {kind : Nat → BurstKind} {a n i : Nat} {data : List Byte} {b : Burst}
    (h : (runBursts kind a n data)[i]? = some b) :
    ∃ q : Nat × Nat,
      PartOfRun a n (((runBursts kind a n data).take i).map Burst.len).sum (i + 1 = (runBursts kind a n data).length) q ∧
        b = burstAt (kind (q.1 - a)) q.1 q.2 ((data.drop (q.1 - a)).take q.2) := by
  have len : (runBursts kind a n data).length = (cutRun (n / 64 + 2) a n).length := by simp [runBursts]
  rw [List.map_take, runBursts_lens, ← List.map_take, len]
  rw [runBursts, List.getElem?_map, Option.map_eq_some_iff] at h
  obtain ⟨q, hq, rfl⟩ := h
  exact ⟨q, cutRun_part hq, rfl⟩

theorem burstAt_below (k : BurstKind) {a : Nat} (n : Nat) (data : List Byte) (h : a < 2 ^ 32) :
    burstAt k a n data =
      { kind := k, addr := BitVec.ofNat 32 a, len := n, data := data, beyond := false, dropped := false } := by
  rw [burstAt, if_pos h, decide_eq_false (Nat.not_le.mpr h)]

theorem burstAt_beyond (k : BurstKind) {a : Nat} (n : Nat) (data : List Byte) (h : 2 ^ 32 ≤ a) :
    burstAt k a n data = { kind := k, addr := 0, len := n, data := data, beyond := true, dropped := false } := by
  rw [burstAt, if_neg (Nat.not_lt.mpr h), decide_eq_true h]

/-- R161: no part that begins below the top of the address space reaches past it, since the top is a multiple of 64. -/
theorem PartOfRun.below {a n before : Nat} {last : Prop} {p : Nat × Nat} (h : PartOfRun a n before last p)
    (ht : p.1 < 2 ^ 32) : p.1 + p.2 ≤ 2 ^ 32 := by
  obtain ⟨-, filled, whole, -, -⟩ := h
  omega

/-- Settles O53. -/
theorem runsAreCutAtMultiplesOf64 : Obligations.RunsAreCutAtMultiplesOf64 := by
  refine ⟨fun _ _ _ _ => rfl, fun b hb => beatBytes_eq hb, fun kind a n data hd => ⟨runBursts_sum kind a n data,
    runBursts_data hd, fun i p b hb hp => ?_⟩⟩
  obtain ⟨q, part, rfl⟩ := runBursts_part hb
  obtain rfl : p = q.1 := hp.trans part.starts.symm
  have ⟨starts, filled, whole, inside, ends⟩ := part
  refine ⟨filled, ?_, whole, rfl, rfl, fun more => ends (Nat.ne_of_lt more), fun none => ?_, fun full => ?_, fun low => ?_,
    fun high => ?_⟩
  · dsimp only [burstAt]
    omega
  · rw [none]
    exact (congrArg _ List.drop_nil).trans List.take_nil
  · dsimp only [burstAt]
    rw [List.length_take, List.length_drop]
    omega
  · rw [burstAt_below _ _ _ low]
    exact ⟨(BitVec.toNat_ofNat _ _).trans (Nat.mod_eq_of_lt low), part.below low, rfl⟩
  · rw [burstAt_beyond _ _ _ high]
    exact ⟨rfl, rfl⟩

end Sys2Proof.Machine
end

section
/-! The memory port: responses that no block is handed, and the grant (R160 to R164, R169, R170). -/

namespace Sys2Proof.Machine

/-! ### Which block takes a response -/

/-- R163: `f` is how the requester of the bursts `k` takes the response `c`; an ERROR is taken as the arbiter gives it,
whether the burst was carried or not. -/
structure TakesBy (c : Nat → Response → Instr) (k : BurstKind → Bool) (f : Burst → Answer → State → State) : Prop where
  runs : ∀ tag r s, exec (c tag r) s = live (respond k tag r f) s
  error : ∀ b s, k b.kind = true → f { b with beyond := false } none s = answerBurst b none s

/-- An answer of a block is that of the arbiter's table, for every kind of burst that the block takes. -/
theorem TakesBy.of_kinds {c : Nat → Response → Instr} {k : BurstKind → Bool} {f : Burst → Answer → State → State}
    (runs : ∀ tag r s, exec (c tag r) s = live (respond k tag r f) s)
    (error : ∀ j a n d y x s, k j = true → f ⟨j, a, n, d, false, x⟩ none s = answerBurst ⟨j, a, n, d, y, x⟩ none s) :
    TakesBy c k f :=
  ⟨runs, fun b s h => error b.kind b.addr b.len b.data b.beyond b.dropped s h⟩

theorem takesBy_timing : TakesBy .timingReadResponse BurstKind.isTiming answerTiming :=
  .of_kinds (fun _ _ _ => rfl) fun j _ _ _ _ _ _ h => by
    obtain rfl := (burstKinds.timing j).mp h
    rfl

theorem takesBy_descriptor : TakesBy .descriptorReadResponse BurstKind.isDescriptor answerDescriptor :=
  .of_kinds (fun _ _ _ => rfl) fun j _ _ _ _ _ _ h => by
    obtain ⟨n, rfl⟩ := (burstKinds.descriptor j).mp h
    rfl

theorem takesBy_body : TakesBy .bodyBurstResponse BurstKind.isBody answerBody :=
  .of_kinds (fun _ _ _ => rfl) fun j _ _ _ _ _ _ h => by
    obtain ⟨off, rfl⟩ := (burstKinds.body j).mp h
    rfl

theorem takesBy_slotWrite : TakesBy .slotWriteResponse BurstKind.isSlotWrite answerSlotWrite :=
  .of_kinds (fun _ _ _ => rfl) fun j _ _ _ _ _ _ h => by
    obtain ⟨n, seq, asks, rfl⟩ := (burstKinds.slotWrite j).mp h
    rfl

theorem takesBy_span : TakesBy .spanBurstResponse BurstKind.isSpan answerSpan :=
  .of_kinds (fun _ _ _ => rfl) fun j _ _ _ _ _ _ h => by
    obtain ⟨line, place, off, rfl⟩ := (burstKinds.span j).mp h
    rfl

theorem takesBy_headPointer : TakesBy .headPointerReadResponse (fun k => k == .headPointer) answerHeadPointer :=
  .of_kinds (fun _ _ _ => rfl) fun j _ _ _ _ _ _ h => by
    obtain rfl := beq_iff_eq.mp h
    rfl

theorem takesBy_orderHead : TakesBy .orderHeadReadResponse BurstKind.isOrderHead answerOrderHead :=
  .of_kinds (fun _ _ _ => rfl) fun j _ _ _ _ _ _ h => by
    obtain ⟨a, off, rfl⟩ := (burstKinds.orderHead j).mp h
    rfl

theorem takesBy_remainder : TakesBy .remainderReadResponse BurstKind.isRemainder answerRemainder :=
  .of_kinds (fun _ _ _ => rfl) fun j _ _ _ _ _ _ h => by
    obtain ⟨off, rfl⟩ := (burstKinds.remainder j).mp h
    rfl

theorem takesBy_link : TakesBy .linkReadResponse (fun k => k == .link) answerLink :=
  .of_kinds (fun _ _ _ => rfl) fun j _ _ _ _ _ _ h => by
    obtain rfl := beq_iff_eq.mp h
    rfl

theorem takesBy_tail : TakesBy .tailRereadResponse (fun k => k == .tail) answerTail :=
  .of_kinds (fun _ _ _ => rfl) fun j _ _ _ _ _ _ h => by
    obtain rfl := beq_iff_eq.mp h
    rfl

theorem takesBy_final : TakesBy .finalStatusWriteResponse (fun k => k == .final) answerFinal :=
  .of_kinds (fun _ _ _ => rfl) fun j _ _ _ _ _ _ h => by
    obtain rfl := beq_iff_eq.mp h
    rfl

theorem takesBy_status : TakesBy .statusWriterResponse BurstKind.isStatus answerStatus :=
  .of_kinds (fun _ _ _ => rfl) fun j _ _ _ _ _ _ h => by
    obtain rfl := (burstKinds.statusWrite j).mp h
    rfl

theorem takesBy_active : TakesBy .activeWriteResponse (fun k => k == .active) answerActive :=
  .of_kinds (fun _ _ _ => rfl) fun j _ _ _ _ _ _ h => by
    obtain rfl := beq_iff_eq.mp h
    rfl

theorem takesBy_copySrc : TakesBy .copyReadResponse BurstKind.isCopySrc answerCopyRead :=
  .of_kinds (fun _ _ _ => rfl) fun j _ _ _ _ _ _ h => by
    obtain ⟨off, rfl⟩ := (burstKinds.copySrc j).mp h
    rfl

theorem takesBy_pixel : TakesBy .pixelWriteResponse (fun k => k == .pixel) answerPixel :=
  .of_kinds (fun _ _ _ => rfl) fun j _ _ _ _ _ _ h => by
    obtain rfl := beq_iff_eq.mp h
    rfl

theorem takesBy_stamp : TakesBy .stampWriteResponse (fun k => k == .stamp) answerStamp :=
  .of_kinds (fun _ _ _ => rfl) fun j _ _ _ _ _ _ h => by
    obtain rfl := beq_iff_eq.mp h
    rfl

theorem allResponses_taken : ∀ p ∈ allResponses, ∃ f, TakesBy p.1 p.2 f := by
  simp only [allResponses, runningResponses, List.cons_append, List.nil_append, List.forall_mem_cons]
  exact ⟨⟨_, takesBy_timing⟩, ⟨_, takesBy_descriptor⟩, ⟨_, takesBy_body⟩, ⟨_, takesBy_slotWrite⟩, ⟨_, takesBy_span⟩,
    ⟨_, takesBy_headPointer⟩, ⟨_, takesBy_orderHead⟩, ⟨_, takesBy_remainder⟩, ⟨_, takesBy_link⟩, ⟨_, takesBy_tail⟩,
    ⟨_, takesBy_final⟩, ⟨_, takesBy_status⟩, ⟨_, takesBy_active⟩, ⟨_, takesBy_copySrc⟩, ⟨_, takesBy_pixel⟩,
    ⟨_, takesBy_stamp⟩, fun p hp => absurd hp List.not_mem_nil⟩

/-! ### Responses that no block is handed -/

theorem respond_unfit {k : BurstKind → Bool} {tag : Nat} {s : State} {r : Response} {b : Burst}
    (f : Burst → Answer → State → State) (h : s.port.find k tag = some b) (fit : responseFits b r = false) :
    respond k tag r f s = s := by
  unfold respond
  rw [h]
  simp [fit]

theorem mem_places {pl : Place} {p : Port} : pl ∈ p.places ↔ pl ∈ p.reads ∨ p.write = some pl := by
  simp [Port.places]

/-- R163, R170: every place of a port has a tag given out since the last power-on reset. -/
theorem PortWf.tag_bounds {p : Port} (w : PortWf p) {pl : Place} (h : pl ∈ p.places) :
    readTag p.epoch 0 ≤ pl.tag ∧ pl.tag ≤ writeTag p.epoch := by
  rcases mem_places.mp h with hr | hw
  · obtain ⟨low, high⟩ := w.low pl.tag (List.mem_map_of_mem hr)
    exact ⟨low, high.le⟩
  · rw [w.write pl hw]
    simp [readTag, writeTag]

/-- R170: a tag given out before a power-on reset is that of no place after it. -/
theorem PortWf.no_old_tag {p q : Port} (w : PortWf p) (v : PortWf q) (h : p.epoch < q.epoch) {pl : Place}
    (hp : pl ∈ p.places) : ∀ x ∈ q.places, x.tag ≠ pl.tag := by
  intro x hx e
  obtain ⟨-, high⟩ := w.tag_bounds hp
  obtain ⟨low, -⟩ := v.tag_bounds hx
  simp only [readTag, writeTag] at high low
  omega

theorem find_untagged {k : BurstKind → Bool} {tag : Nat} {p : Port} (h : ∀ x ∈ p.places, x.tag ≠ tag) :
    p.find k tag = none := by
  cases hf : p.find k tag with
  | none => rfl
  | some b =>
    obtain ⟨pl, hp, ht, -⟩ := find_place hf
    exact absurd ht (h pl hp)

theorem takeAbandoned_frees {tag : Nat} {s : State} {pl : Place} (h : pl ∈ s.port.places) (ht : pl.tag = tag)
    (ha : pl.abandoned = true) : takeAbandoned tag s = freed tag s :=
  if_pos (List.any_eq_true.mpr ⟨pl, h, by simp [ht, ha]⟩)

theorem takeAbandoned_ignores {tag : Nat} {s : State} (h : ∀ pl ∈ s.port.places, pl.tag = tag → pl.abandoned = false) :
    takeAbandoned tag s = s := by
  refine if_neg fun found => ?_
  obtain ⟨pl, hp, both⟩ := List.any_eq_true.mp found
  simp only [Bool.and_eq_true, beq_iff_eq] at both
  exact absurd both.2 (by simp [h pl hp both.1])

/-- A command that changes nothing while RESET_N is released changes nothing. -/
theorem live_ignored {f : State → State} {s : State} (h : f s = s) : live f s = .next s := by
  cases hr : s.resetHeld with
  | true => exact live_held hr
  | false => rw [live_running hr, h]

/-- Settles O52. -/
theorem responsesDiscarded : Obligations.ResponsesDiscarded := by
  refine ⟨fun k tag b s => ⟨rfl, fun h => ?_, fun w h => ?_⟩, fun c k tag r s hc hr => ?_,
    fun c k r pl s t hc ws wt he hpl => ?_, fun tag r s hr => ?_⟩
  · obtain ⟨pl, hp, rest⟩ := find_place h
    exact ⟨pl, mem_places.mp hp, rest⟩
  · obtain ⟨pl, hp, rfl, ha, hk, rfl⟩ := h
    exact find_of_place w (mem_places.mpr hp) ha hk
  · obtain ⟨f, runs, -⟩ := allResponses_taken _ hc
    refine ⟨fun b hf hd fits => ?_, fun b data hf hw hl => ?_, fun hf => ?_⟩
    · have fit : responseFits b r = true := by
        cases r with
        | error => rfl
        | ok data =>
          cases hw : b.kind.isWrite with
          | true => exact responseFits_write data hw
          | false => simp [responseFits, fits data rfl hw]
      rw [runs, live_running hr, respond_dropped f hf fit hd]
      rfl
    · rw [runs, live_running hr, respond_unfit f hf (by simp [responseFits, hw, hl])]
    · rw [runs, live_running hr, respond_unmatched r f hf]
  · obtain ⟨f, runs, -⟩ := allResponses_taken _ hc
    have none_left := ws.no_old_tag wt he (mem_places.mpr hpl)
    refine ⟨?_, live_ignored (takeAbandoned_ignores fun x hx e => absurd e (none_left x hx))⟩
    rw [runs]
    exact live_ignored (respond_unmatched r f (find_untagged none_left))
  · have run : exec (.abandonedResponse tag r) s = .next (takeAbandoned tag s) := live_running hr
    rw [run]
    refine ⟨fun h => ?_, fun h1 h2 => ?_⟩
    · rcases h with ⟨pl, hp, ht, ha⟩ | ⟨pl, hp, ht, ha⟩
      · rw [takeAbandoned_frees (mem_places.mpr (.inl hp)) ht ha]
      · rw [takeAbandoned_frees (mem_places.mpr (.inr hp)) ht ha]
    · rw [takeAbandoned_ignores fun pl hp => (mem_places.mp hp).elim (h1 pl) (h2 pl)]

/-! ### The grant -/

theorem grantable_iff (p : Port) (b : Burst) :
    p.grantable b = true ↔ ¬((b.kind.isWrite = true → p.write ≠ none) ∧ (b.kind.isWrite = false → 8 ≤ p.reads.length)) := by
  cases hw : b.kind.isWrite <;> simp [Port.grantable, hw]

/-- R162: a requester is blocked when its presented burst cannot be granted. -/
theorem blocked_iff (p : Port) (q : Requester) : Blocked p q ↔ ∀ b, p.presented q = some b → p.grantable b = false := by
  simp only [Blocked, ← Bool.not_eq_true, grantable_iff, not_not]

theorem grantable_of_unblocked {p : Port} {q : Requester} {b : Burst} (h : p.presented q = some b) (hb : ¬Blocked p q) :
    p.grantable b = true := by
  by_contra no
  refine hb ((blocked_iff p q).mpr fun b' h' => ?_)
  obtain rfl := Option.some.inj (h.symm.trans h')
  exact Bool.not_eq_true _ ▸ no

/-- R162: the highest requester that is not blocked wins. -/
theorem winner_of {p : Port} {q : Requester} {b : Burst} (h : p.presented q = some b) (hg : p.grantable b = true)
    (ho : ∀ r ∈ outranks q, Blocked p r) : p.winner = some (q, b) := by
  unfold Port.winner
  refine List.findSome?_eq_some_iff.mpr ⟨outranks q, q, byPriority.drop ((outranks q).length + 1), by cases q <;> rfl,
    ?_, fun r hr => ?_⟩
  · simp only [h, hg, if_true]
  · cases hp : p.presented r with
    | none => rfl
    | some b' => simp [(blocked_iff p r).mp (ho r hr) b' hp]

theorem winner_none {p : Port} (h : ∀ q, Blocked p q) : p.winner = none := by
  unfold Port.winner
  refine List.findSome?_eq_none_iff.mpr fun r _ => ?_
  cases hp : p.presented r with
  | none => rfl
  | some b' => simp [(blocked_iff p r).mp (h r) b' hp]

/-- The part with the presented burst of `q` taken from it, and the loader's next burst issued. -/
def popped (q : Requester) (s : State) : State :=
  settleLoader (s.modPort (Port.pop q))

theorem grant_of_winner {q : Requester} {b : Burst} {s : State} (h : s.port.winner = some (q, b)) :
    grant s = runGranted b (popped q s) := by
  unfold grant
  rw [h]
  rfl

theorem exec_burstGrant {q : Requester} {b : Burst} {s : State} (hr : s.resetHeld = false)
    (h : s.port.winner = some (q, b)) : exec .burstGrant s = .next (runGranted b (popped q s)) :=
  (live_running hr).trans (congrArg _ (grant_of_winner h))

theorem popped_eq (q : Requester) (s : State) :
    popped q s =
      { s with
        writer :=
          if (if q = .loader then s.port.loader.tail else s.port.loader).head?.any Burst.asks then
            { s.writer with wantBlock := true }
          else s.writer
        port :=
          { s.port with
            fetch := if q = .fetch then s.port.fetch.tail else s.port.fetch
            loader := firstIssued (if q = .loader then s.port.loader.tail else s.port.loader)
            status := if q = .status then s.port.status.tail else s.port.status
            paint := if q = .paint then s.port.paint.tail else s.port.paint } } := by
  rw [popped, settleLoader_spec]
  cases q <;> rfl

theorem occupy_write {b : Burst} {p : Port} (h : b.kind.isWrite = true) :
    p.occupy b = { p with write := some { tag := writeTag p.epoch, burst := b, abandoned := false } } :=
  if_pos h

theorem occupy_read {b : Burst} {p : Port} (h : b.kind.isWrite = false) :
    p.occupy b = { p with reads := p.reads ++ [{ tag := p.freshTag, burst := b, abandoned := false }] } :=
  if_neg (by simp [h])

/-- The place that a granted burst takes, with the tag it is given. -/
def newPlace (b : Burst) (p : Port) : Place :=
  { tag := if b.kind.isWrite then writeTag p.epoch else p.freshTag, burst := b, abandoned := false }

theorem newPlace_mem (b : Burst) (p : Port) : newPlace b p ∈ (p.occupy b).places := by
  cases hw : b.kind.isWrite with
  | true => simp [newPlace, occupy_write hw, Port.places, hw]
  | false => simp [newPlace, occupy_read hw, Port.places, hw]

theorem PortWf.read_tag_ne {p : Port} (w : PortWf p) {pl : Place} (h : pl ∈ p.reads) : pl.tag ≠ writeTag p.epoch :=
  (w.low pl.tag (List.mem_map_of_mem h)).2.ne

/-- A burst granted and answered at once leaves the places as they were. -/
theorem free_occupy {b : Burst} {p : Port} (w : PortWf p) (g : p.grantable b = true) :
    (p.occupy b).free (newPlace b p).tag = p := by
  cases hw : b.kind.isWrite with
  | true =>
    have empty : p.write = none := by simpa [Port.grantable, hw] using g
    have reads : p.reads.filter (fun pl => pl.tag != writeTag p.epoch) = p.reads :=
      List.filter_eq_self.mpr fun pl hp => by simp [w.read_tag_ne hp]
    simp [newPlace, hw, occupy_write hw, Port.free, reads, Option.filter, empty.symm]
  | false =>
    have room : p.reads.length < 8 := by simpa [Port.grantable, hw] using g
    obtain ⟨n, hn, tag, fresh⟩ := freshTag_spec room
    have reads : p.reads.filter (fun pl => pl.tag != p.freshTag) = p.reads :=
      List.filter_eq_self.mpr fun pl hp => by
        have other : pl.tag ≠ p.freshTag := fun e => fresh (tag ▸ e ▸ List.mem_map_of_mem hp)
        simpa using other
    have write : p.write.filter (fun pl => pl.tag != p.freshTag) = p.write := by
      cases hp : p.write with
      | none => rfl
      | some pl =>
        have other : pl.tag ≠ p.freshTag := by
          rw [w.write pl hp, tag, readTag, writeTag]
          omega
        simp [Option.filter, other]
    simp [newPlace, hw, occupy_read hw, Port.free, reads, write]

theorem presenting_presented (q : Requester) (b : Burst) (p : Port) : (presenting q b p).presented q = some b := by
  cases q <;> rfl

theorem presenting_grantable (q : Requester) (b c : Burst) (p : Port) :
    (presenting q b p).grantable c = p.grantable c := by
  cases q <;> rfl

theorem presenting_other {q r : Requester} (b : Burst) (p : Port) (h : r ≠ q) :
    (presenting q b p).presented r = p.presented r := by
  cases q <;> cases r <;> simp_all [presenting, Port.presented]

theorem outranks_ne {q r : Requester} (h : r ∈ outranks q) : r ≠ q := by
  rintro rfl
  revert h
  cases r <;> decide

theorem presenting_blocked {q r : Requester} {b : Burst} {p : Port} (h : r ∈ outranks q) (hb : Blocked p r) :
    Blocked (presenting q b p) r := by
  rw [blocked_iff] at hb ⊢
  intro c hc
  rw [presenting_grantable]
  exact hb c (presenting_other b p (outranks_ne h) ▸ hc)

theorem presenting_pop (q : Requester) (b : Burst) (p : Port) : (presenting q b p).pop q = p.pop q := by
  cases q <;> rfl

theorem popped_presenting (q : Requester) (b : Burst) (s : State) :
    popped q { s with port := presenting q b s.port } = popped q s := by
  have same : ({ s with port := presenting q b s.port } : State).modPort (Port.pop q) = s.modPort (Port.pop q) := by
    rw [State.modPort, State.modPort, presenting_pop]
  rw [popped, popped, same]

theorem popped_epoch (q : Requester) (s : State) : (popped q s).port.epoch = s.port.epoch :=
  (popped_quiet q s).epoch

theorem popped_reads (q : Requester) (s : State) : (popped q s).port.reads = s.port.reads := by
  rw [popped_eq]

theorem popped_write (q : Requester) (s : State) : (popped q s).port.write = s.port.write := by
  rw [popped_eq]

theorem popped_wf {q : Requester} {s : State} (w : PortWf s.port) : PortWf (popped q s).port :=
  w.of_tags (popped_quiet q s).tags (popped_quiet q s).write (popped_quiet q s).epoch

theorem popped_grantable (q : Requester) (b : Burst) (s : State) :
    (popped q s).port.grantable b = s.port.grantable b := by
  rw [Port.grantable, Port.grantable, popped_reads, popped_write]

theorem free_granted {b : Burst} {s : State} (w : PortWf s.port) (g : s.port.grantable b = true) :
    (s.modPort (Port.occupy b)).modPort (Port.free (newPlace b s.port).tag) = s :=
  (congrArg (fun p => ({ s with port := p } : State)) (free_occupy w g) :)

/-- R161: a carried burst whose response is ERROR is answered as one past the top is. -/
theorem runGranted_error {c : Nat → Response → Instr} {k : BurstKind → Bool} {f : Burst → Answer → State → State}
    {b : Burst} {s : State} (t : TakesBy c k f) (hk : k b.kind = true) (hr : s.resetHeld = false) (w : PortWf s.port)
    (g : s.port.grantable b = true) (hb : b.beyond = true) :
    ∃ (v : State) (tag : Nat), runGranted { b with beyond := false } s = v ∧
      v.port.find k tag = some { b with beyond := false } ∧ exec (c tag .error) v = .next (runGranted b s) := by
  obtain ⟨runs, error⟩ := t
  have carried : runGranted { b with beyond := false } s = s.modPort (Port.occupy { b with beyond := false }) := rfl
  have taken : (s.port.occupy { b with beyond := false }).find k (newPlace { b with beyond := false } s.port).tag =
      some { b with beyond := false } :=
    find_of_place (w.occupy g) (newPlace_mem _ s.port) rfl hk
  have back : (s.modPort (Port.occupy { b with beyond := false })).modPort
      (Port.free (newPlace { b with beyond := false } s.port).tag) = s := free_granted w g
  refine ⟨_, _, carried, taken, ?_⟩
  rw [runs]
  refine Eq.trans (live_running ?_) (congrArg _ ?_)
  · exact hr
  rw [runGranted, if_pos hb]
  by_cases hd : b.dropped = true
  · exact (respond_dropped (b := { b with beyond := false }) f taken rfl hd).trans (back.trans (if_pos hd).symm)
  · refine (respond_answered (b := { b with beyond := false }) f taken rfl (Bool.eq_false_of_not_eq_true hd)).trans ?_
    rw [back, if_neg hd]
    exact error b s hk

/-- A burst past the top takes no place. -/
theorem runGranted_beyond {b : Burst} {s : State} (hb : b.beyond = true) :
    (runGranted b s).port.reads.map Place.tag = s.port.reads.map Place.tag ∧
      (runGranted b s).port.write = s.port.write := by
  rw [runGranted, if_pos hb]
  split
  · exact ⟨rfl, rfl⟩
  · exact ⟨(answerBurst_mild b none s).tags, (answerBurst_mild b none s).write⟩

/-- R162, R163: a granted burst takes a place of its own, and nothing but the port and the status writer changes. -/
theorem runGranted_carried {q : Requester} {b : Burst} {s : State} (hb : b.beyond = false) :
    runGranted b (popped q s) =
      { popped q s with port := (popped q s).port.occupy b } := by
  rw [runGranted, if_neg (by simp [hb])]
  rfl

theorem occupy_places (b : Burst) (p : Port) :
    ∃ rs w, p.occupy b = { p with reads := rs, write := w } ∧
      (b.kind.isWrite = true → rs = p.reads ∧ w = some { tag := writeTag p.epoch, burst := b, abandoned := false }) ∧
      (b.kind.isWrite = false →
        w = p.write ∧ rs = p.reads ++ [{ tag := p.freshTag, burst := b, abandoned := false }]) := by
  cases hw : b.kind.isWrite with
  | true => exact ⟨_, _, occupy_write hw, fun _ => ⟨rfl, rfl⟩, fun h => absurd h (by simp)⟩
  | false => exact ⟨_, _, occupy_read hw, fun h => absurd h (by simp), fun _ => ⟨rfl, rfl⟩⟩

/-- Settles O51. -/
theorem burstGrantResult : Obligations.BurstGrantResult := by
  refine ⟨burstKinds, fun _ => ⟨rfl, rfl, rfl, rfl⟩, fun s hr => ⟨fun q b hq hb ho => ?_, fun h => ?_⟩⟩
  · have g := grantable_of_unblocked hq hb
    refine ⟨_, exec_burstGrant hr (winner_of hq g ho), fun carried => ?_, fun beyond => ?_⟩
    · obtain ⟨rs, w, places, write, read⟩ := occupy_places b (popped q s).port
      rw [popped_epoch, popped_reads, popped_write] at *
      rw [runGranted_carried carried, places, popped_eq]
      refine ⟨rfl, ⟨rfl, rfl⟩, write, fun hw => ?_⟩
      obtain ⟨ew, er⟩ := read hw
      have room : (popped q s).port.reads.length < 8 := by
        rw [popped_reads]
        simpa [Port.grantable, hw] using g
      obtain ⟨n, hn, tag, fresh⟩ := freshTag_spec room
      rw [popped_epoch, popped_reads] at *
      exact ⟨ew, n, hn, fresh, tag ▸ er⟩
    · obtain ⟨tags, write⟩ := runGranted_beyond (b := b) (s := popped q s) beyond
      rw [popped_reads] at tags
      rw [popped_write] at write
      refine ⟨tags, write, fun c k hc hk w => ?_⟩
      obtain ⟨f, takes⟩ := allResponses_taken _ hc
      obtain ⟨v, tag, granted, found, answered⟩ := runGranted_error (s := popped q s) takes hk
        ((popped_quiet q s).resetHeld.trans hr) (popped_wf w) ((popped_grantable q b s).trans g) beyond
      refine ⟨v, tag, ?_, found, answered⟩
      rw [← granted, ← popped_presenting q { b with beyond := false } s]
      exact exec_burstGrant (s := { s with port := presenting q { b with beyond := false } s.port }) hr
        (winner_of (presenting_presented q _ _) ((presenting_grantable q _ _ _).trans g)
          fun r hr => presenting_blocked hr (ho r hr))
  · exact (live_running hr).trans (congrArg _ (by rw [grant, winner_none h]))

end Sys2Proof.Machine
end


section
/-! The walk along the paint chain: its words, the heads of its orders, the fence at a latch point, and the end of an
order (R108, R109, R112 to R117, R122 to R126, R142, R146). -/

namespace Sys2Proof.Machine

/-! ### What the paint engine's updates come to -/

theorem mask_paintHalted : Event.paintHalted.mask = 0x200 := by decide

theorem mask_paintNotify : Event.paintNotify.mask = 0x100 := by decide

/-- R116, R123: a report that halts the engine. -/
theorem halt_reported (code : Code) (addr : Word) (s : State) : halt (reportPaint code addr s) = haltedBy code addr s := by
  rw [haltedBy, ← mask_paintHalted]
  rfl

theorem setChainPos_eq (a : Word) (s : State) :
    setChainPos a s =
      { s with
        paint := { s.paint with chainPos := a }
        writer := if s.paint.chainPos = a then s.writer else { s.writer with wantBlock := true } } := by
  unfold setChainPos
  split <;> rfl

theorem modHeld_some {f : Held → Held} {h : Held} {s : State} (hh : s.paint.held = some h) :
    modHeld f s = { s with paint := { s.paint with held := some (f h) } } := by
  rw [modHeld, State.modPaint, hh]
  rfl

/-- R113: the head of the order at `a` is asked for by an engine that is LOADING. -/
theorem readOrderHead_loading {a : Word} {s : State} (hl : s.paint.engine = .loading) :
    readOrderHead a s =
      { s with
        paint :=
          { s.paint with
            buf := List.replicate 12 0, bufLeft := (runBursts (.orderHead a) a.toNat 12 []).length, bufErr := none }
        port := { s.port with paint := s.port.paint ++ runBursts (.orderHead a) a.toNat 12 [] } } := by
  unfold readOrderHead
  rw [← hl]
  rfl

theorem followLink_end {w : Word} (s : State) (h : w.toNat < 8) :
    followLink w s = { s with paint := { s.paint with engine := .atTail, passedOver := 0 } } := by
  rw [followLink, nextOrder_none h]
  rfl

theorem followLink_order {w : Word} (s : State) (h : 8 ≤ w.toNat) :
    followLink w s = readOrderHead (w &&& 0xFFFFFFF8) s := by
  rw [followLink, nextOrder_some h]

theorem followTail_end {w : Word} (s : State) (h : w.toNat < 8) :
    followTail w s = { s with paint := { s.paint with engine := .atTail } } := by
  rw [followTail, nextOrder_none h]
  rfl

theorem followTail_order {w : Word} (s : State) (h : 8 ≤ w.toNat) :
    followTail w s = readOrderHead (w &&& 0xFFFFFFF8) s := by
  rw [followTail, nextOrder_some h]

/-! ### The words of the chain -/

theorem answerWord_ok {b : Burst} {data : List Byte} {f : Word → State → State} {s : State}
    (hl : s.paint.engine = .loading) : answerWord b (some data) f s = f (u32 data 0) s :=
  if_pos hl

theorem answerWord_failed {b : Burst} {f : Word → State → State} {s : State} (hl : s.paint.engine = .loading) :
    answerWord b none f s = haltedBy .busFault b.addr s :=
  (if_pos hl).trans (halt_reported _ _ s)

/-- R112, R115, R117: `follow` is what a word of the chain, read by the burst `k`, makes of the walk. -/
structure Follows (k : BurstKind) (follow : Word → State → State) : Prop where
  tail : ∀ w s, w.toNat < 8 →
    follow w s =
      { s with
        paint := { s.paint with engine := .atTail, passedOver := if k = .tail then s.paint.passedOver else 0 } }
  order : ∀ w s, 8 ≤ w.toNat → follow w s = readOrderHead (w &&& 0xFFFFFFF8) s

theorem follows_link {k : BurstKind} (hk : k ≠ .tail) : Follows k followLink :=
  ⟨fun w s h => by rw [followLink_end s h, if_neg hk], fun _ s => followLink_order s⟩

theorem follows_tail : Follows .tail followTail :=
  ⟨fun w s h => by rw [followTail_end s h, if_pos rfl], fun _ s => followTail_order s⟩

theorem wordResponses_taken : ∀ p ∈ wordResponses, ∃ follow, Follows p.2 follow ∧
    TakesBy p.1 (fun j => j == p.2) fun b a => answerWord b a follow := by
  simp only [wordResponses, List.forall_mem_cons]
  exact ⟨⟨_, follows_link (by decide), takesBy_headPointer⟩, ⟨_, follows_link (by decide), takesBy_link⟩,
    ⟨_, follows_tail, takesBy_tail⟩, fun p hp => absurd hp List.not_mem_nil⟩

/-- Settles O41. -/
theorem chainWordResult : Obligations.ChainWordResult := by
  intro c k tag data b w s hc ha hl hd hw
  obtain ⟨follow, ⟨tail, order⟩, runs, -⟩ := wordResponses_taken _ hc
  have loading : (freed tag s).paint.engine = .loading := hl
  have ok : exec (c tag (.ok data)) s = .next (follow w (freed tag s)) := by
    rw [runs, hw]
    exact (respond_ok _ ha hd).trans (congrArg _ (answerWord_ok loading))
  refine ⟨fun low => ?_, fun high => ?_, ?_⟩
  · rw [ok, tail _ _ low]
    rfl
  · refine ⟨_, ok, ?_⟩
    rw [order _ _ high, readOrderHead_loading loading, order_toNat]
    exact ⟨rfl, rfl, rfl, rfl⟩
  · rw [runs]
    exact (respond_error _ ha).trans (congrArg _ (answerWord_failed loading))

/-! ### The head of an order -/

theorem loopHalt_halts {s : State} (hl : s.paint.engine = .loading) (hp : s.paint.passedOver = 256) :
    loopHalt s = haltedBy .chainLoop s.paint.chainPos s := by
  rw [loopHalt, if_pos (by simp [chainLoopDue, hl, hp]), halt_reported]

theorem loopHalt_other {s : State} (h : ¬(s.paint.engine = .loading ∧ s.paint.passedOver = 256)) : loopHalt s = s :=
  if_neg (by simpa [chainLoopDue] using h)

theorem exec_chainLoop {s : State} (hr : s.resetHeld = false) (hl : s.paint.engine = .loading)
    (hp : s.paint.passedOver = 256) : exec .chainLoop s = .next (haltedBy .chainLoop s.paint.chainPos s) :=
  (live_running hr).trans (congrArg _ (loopHalt_halts hl hp))

theorem gather_ok (b : Burst) (off : Nat) (data : List Byte) (s : State) :
    gather b off (some data) s =
      { s with paint := { s.paint with bufLeft := s.paint.bufLeft - 1, buf := putBytes s.paint.buf off data } } := rfl

theorem gather_failed (b : Burst) (off : Nat) (s : State) :
    gather b off none s =
      { s with
        paint :=
          { s.paint with
            bufLeft := s.paint.bufLeft - 1, bufErr := s.paint.bufErr.orElse fun _ => some b.addr } } := rfl

section
variable {b : Burst} {a : Word} {off : Nat} {s : State} (hk : b.kind = .orderHead a off) (hl : s.paint.engine = .loading)
include hk hl

theorem answerOrderHead_waits {x : Answer} (hb : 2 ≤ s.paint.bufLeft) : answerOrderHead b x s = gather b off x s := by
  have more : (gather b off x s).paint.bufLeft ≠ 0 := by
    change s.paint.bufLeft - 1 ≠ 0
    omega
  simp [answerOrderHead, hk, hl, more]

theorem answerOrderHead_failed {x : Answer} {e : Word} (hb : s.paint.bufLeft ≤ 1)
    (he : (gather b off x s).paint.bufErr = some e) :
    answerOrderHead b x s = haltedBy .busFault e (gather b off x s) := by
  have last : (gather b off x s).paint.bufLeft = 0 := Nat.sub_eq_zero_of_le hb
  rw [← halt_reported]
  simp [answerOrderHead, hk, hl, last, he, haltOnError]

theorem answerOrderHead_read {data : List Byte} (hb : s.paint.bufLeft ≤ 1) (he : s.paint.bufErr = none) :
    answerOrderHead b (some data) s =
      headRead a (putBytes s.paint.buf off data)
        { s with paint := { s.paint with bufLeft := 0, buf := putBytes s.paint.buf off data } } := by
  have last : gather b off (some data) s =
      { s with paint := { s.paint with bufLeft := 0, buf := putBytes s.paint.buf off data } } := by
    rw [gather_ok, Nat.sub_eq_zero_of_le hb]
  simp [answerOrderHead, hk, hl, last, he]

end

/-- R129: the lengths of the remainders, by kind. -/
theorem remainderLength_eq (kind : Byte) :
    remainderLength kind =
      if kind = 1 then 40 else if kind = 2 then 24 else if kind = 3 then 12 else if kind = 4 then 8 else 0 := by
  have byte (i : Nat) (hi : i < 256) : kind.toNat = i ↔ kind = BitVec.ofNat 8 i := by
    rw [← BitVec.toNat_inj, BitVec.toNat_ofNat, Nat.mod_eq_of_lt hi]
  unfold remainderLength
  split
  next h => simp [(byte 1 (by decide)).mp h]
  next h => simp [(byte 2 (by decide)).mp h]
  next h => simp [(byte 3 (by decide)).mp h]
  next h => simp [(byte 4 (by decide)).mp h]
  next h1 h2 h3 h4 =>
    simp [(byte 1 (by decide)).not.mp h1, (byte 2 (by decide)).not.mp h2, (byte 3 (by decide)).not.mp h3,
      (byte 4 (by decide)).not.mp h4]

theorem remainderLength_known {kind : Byte} (h1 : 1 ≤ kind.toNat) (h2 : kind.toNat ≤ 4) : remainderLength kind ≠ 0 := by
  have four : kind.toNat = 1 ∨ kind.toNat = 2 ∨ kind.toNat = 3 ∨ kind.toNat = 4 := by omega
  rcases four with h | h | h | h <;> simp [remainderLength, h]

theorem remainderLength_unknown {kind : Byte} (h : kind.toNat = 0 ∨ 5 ≤ kind.toNat) : remainderLength kind = 0 := by
  unfold remainderLength
  split <;> omega

/-- The order at `a` as it is found PENDING, before its remainder is read (R113). -/
def seenOrder (a : Word) (head : List Byte) : Held :=
  { addr := a, kind := u8 head 8, flags := u8 head 9, order := .unknown, phase := .seen, decided := none,
    oldWalk := false, row := 0, src := [], srcLeft := 0 }

theorem holdOrder_known {a : Word} {head : List Byte} {n : Nat} {s : State} (hn : remainderLength (u8 head 8) = n)
    (h0 : n ≠ 0) :
    holdOrder a head s =
      { s with
        paint :=
          { s.paint with
            held := some (seenOrder a head), passedOver := 0, buf := List.replicate n 0,
            bufLeft := (runBursts .remainder (a.toNat + 12) n []).length, bufErr := none }
        port := { s.port with paint := s.port.paint ++ runBursts .remainder (a.toNat + 12) n [] } } := by
  subst hn
  unfold holdOrder
  rw [if_neg h0]
  rfl

theorem beginOrder_refused {o : Order} {h : Held} {code : Code} {s : State} (hh : s.paint.held = some h)
    (hf : o.firstFailing = some code) :
    beginOrder o s =
      finish (.refused code)
        { s with
          paint := { s.paint with engine := .executing, held := some { h with order := o, phase := .running } } } := by
  unfold beginOrder
  simp only [setEngine, modHeld_some hh, State.modPaint, hf]

theorem beginOrder_passed {o : Order} {h : Held} {s : State} (hh : s.paint.held = some h)
    (hf : o.firstFailing = none) :
    beginOrder o s =
      carryOut { h with order := o, phase := .running }
        { s with
          paint := { s.paint with engine := .executing, held := some { h with order := o, phase := .running } } } := by
  unfold beginOrder
  simp only [setEngine, modHeld_some hh, State.modPaint, hf]

/-- The state in which an order of no known kind has been refused, before its final status is issued (R130). -/
def unknownHeld (a : Word) (head : List Byte) (s : State) : State :=
  { s with
    paint :=
      { s.paint with
        held := some { seenOrder a head with phase := .running }, engine := .executing, passedOver := 0, buf := [],
        bufLeft := (runBursts .remainder (a.toNat + 12) 0 []).length, bufErr := none } }

theorem holdOrder_unknown {a : Word} {head : List Byte} {s : State} (hn : remainderLength (u8 head 8) = 0) :
    holdOrder a head s = finish (.refused .kindBad) (unknownHeld a head s) := by
  unfold holdOrder
  rw [hn, if_pos rfl]
  exact beginOrder_refused (h := seenOrder a head) rfl rfl

theorem unknown_closes {a : Word} {head : List Byte} {s : State} (hw : orderWritesOpen s = false) :
    finish (.refused .kindBad) (unknownHeld a head s) =
      closingWith (.refused .kindBad) { seenOrder a head with phase := .running } (unknownHeld a head s) :=
  finish_closes rfl rfl hw

theorem unknown_waits {a : Word} {head : List Byte} {s : State} (hw : orderWritesOpen s = true) :
    finish (.refused .kindBad) (unknownHeld a head s) =
      { unknownHeld a head s with
        paint :=
          { (unknownHeld a head s).paint with
            engine := .executing,
            held := some { seenOrder a head with phase := .running, decided := some (.refused .kindBad) } } } :=
  finish_waits (h := { seenOrder a head with phase := .running }) rfl hw

theorem passOver_follows {head : List Byte} {s : State} (h : s.paint.passedOver + 1 < 256) :
    passOver head s =
      followLink (u32 head 0) { s with paint := { s.paint with passedOver := s.paint.passedOver + 1 } } :=
  if_pos h

theorem passOver_stands {head : List Byte} {s : State} (h : ¬s.paint.passedOver + 1 < 256) :
    passOver head s = { s with paint := { s.paint with passedOver := s.paint.passedOver + 1 } } :=
  if_neg h

/-- The state in which a head that has been read whole is looked at: its order is the chain position (R111, R113). -/
def headTaken (a : Word) (head : List Byte) (s : State) : State :=
  { s with
    paint := { s.paint with bufLeft := 0, buf := head, chainPos := a }
    writer := if s.paint.chainPos = a then s.writer else { s.writer with wantBlock := true } }

theorem headRead_taken (a : Word) (head : List Byte) (s : State) :
    headRead a head { s with paint := { s.paint with bufLeft := 0, buf := head } } =
      if u8 head 4 = 1 then holdOrder a head (headTaken a head s) else passOver head (headTaken a head s) := by
  rw [headRead, setChainPos_eq]
  rfl

theorem orderWritesOpen_congr {s u : State} (hp : u.port.paint = s.port.paint) (hw : u.port.write = s.port.write) :
    orderWritesOpen u = orderWritesOpen s := by
  rw [orderWritesOpen, orderWritesOpen, hp, hw]

/-- Settles O42. -/
theorem orderHeadReadResult : Obligations.OrderHeadReadResult := by
  refine ⟨fun s => ⟨exec_chainLoop, fun h => live_ignored (loopHalt_other h)⟩, ?_⟩
  intro tag off n data head a b s ha hk hl hd hhead hn
  rw [← remainderLength_eq] at hn
  have ok : exec (.orderHeadReadResponse tag (.ok data)) s = .next (answerOrderHead b (some (named b data)) (freed tag s)) :=
    respond_ok answerOrderHead ha hd
  have failed : exec (.orderHeadReadResponse tag .error) s = .next (answerOrderHead b none (freed tag s)) :=
    respond_error answerOrderHead ha
  have loading : (freed tag s).paint.engine = .loading := hl
  have freshErr : s.paint.bufErr.orElse (fun _ => some b.addr) = some (s.paint.bufErr.getD b.addr) := by
    cases s.paint.bufErr <;> rfl
  refine ⟨fun more => ?_, fun last none => ?_, fun more => ?_, fun r e last both => ?_⟩
  · rw [ok, answerOrderHead_waits hk loading more, hhead]
    rfl
  · have taken : exec (.orderHeadReadResponse tag (.ok data)) s =
        .next (if u8 head 4 = 1 then holdOrder a head (headTaken a head (freed tag s))
          else passOver head (headTaken a head (freed tag s))) := by
      rw [ok, ← headRead_taken, hhead]
      exact congrArg _ (answerOrderHead_read hk loading last none)
    refine ⟨_, taken, ?_⟩
    by_cases h4 : u8 head 4 = 1
    · rw [if_pos h4]
      by_cases known : 1 ≤ (u8 head 8).toNat ∧ (u8 head 8).toNat ≤ 4
      · rw [holdOrder_known hn.symm (hn ▸ remainderLength_known known.1 known.2)]
        exact ⟨rfl, fun _ => rfl, fun _ _ _ => ⟨hl, rfl, List.length_replicate, rfl, rfl, rfl⟩,
          fun _ k => absurd known (by omega), fun k => absurd h4 k, fun k => absurd h4 k, fun k => absurd h4 k,
          fun k => absurd h4 k⟩
      · rw [holdOrder_unknown (remainderLength_unknown (by omega))]
        cases waits : orderWritesOpen (freed tag s) with
        | false =>
          rw [unknown_closes (s := headTaken a head (freed tag s)) waits]
          exact ⟨rfl, fun _ => rfl, fun _ k1 k2 => absurd ⟨k1, k2⟩ known,
            fun _ _ => ⟨rfl, fun _ => ⟨rfl, rfl⟩, fun k => absurd ((writeWaits_iff _).mp k) (by simp [waits])⟩,
            fun k => absurd h4 k, fun k => absurd h4 k, fun k => absurd h4 k, fun k => absurd h4 k⟩
        | true =>
          have open_before : ¬¬WriteWaits s := fun k => by
            simpa [waits] using orderWritesOpen_freed (tag := tag) ((not_writeWaits_iff s).mp k)
          rw [unknown_waits (s := headTaken a head (freed tag s)) waits]
          exact ⟨rfl, fun _ => rfl, fun _ k1 k2 => absurd ⟨k1, k2⟩ known,
            fun _ _ => ⟨rfl, fun k => absurd k open_before, fun _ => ⟨rfl, rfl⟩⟩,
            fun k => absurd h4 k, fun k => absurd h4 k, fun k => absurd h4 k, fun k => absurd h4 k⟩
    · rw [if_neg h4]
      by_cases below : s.paint.passedOver + 1 < 256
      · rw [passOver_follows (s := headTaken a head (freed tag s)) below]
        by_cases low : (u32 head 0).toNat < 8
        · rw [followLink_end _ low]
          exact ⟨rfl, fun k => absurd k h4, fun k => absurd k h4, fun k => absurd k h4, fun _ => rfl,
            fun _ _ _ => ⟨rfl, rfl, rfl⟩, fun _ _ k => absurd low (Nat.not_lt.mpr k), fun _ k => by omega⟩
        · rw [followLink_order _ (Nat.not_lt.mp low), readOrderHead_loading (by exact hl), order_toNat]
          refine ⟨?_, fun k => absurd k h4, fun k => absurd k h4, fun k => absurd k h4, fun _ => rfl,
            fun _ _ k => absurd k low, fun _ _ _ => ⟨hl, rfl, rfl, rfl, rfl, rfl⟩, fun _ k => by omega⟩
          rfl
      · rw [passOver_stands (s := headTaken a head (freed tag s)) below]
        refine ⟨rfl, fun k => absurd k h4, fun k => absurd k h4, fun k => absurd k h4, fun _ => rfl,
          fun _ k => absurd k below, fun _ k => absurd k below, fun _ k => ?_⟩
        have count : s.paint.passedOver + 1 = 256 := by omega
        exact ⟨hl, count, rfl, exec_chainLoop ha.1 hl count⟩
  · rw [failed, answerOrderHead_waits hk loading more, ← freshErr]
    rfl
  · rcases both with ⟨rfl, he⟩ | ⟨rfl, he⟩
    · have g : gather b off none (freed tag s) =
          { freed tag s with paint := { s.paint with bufLeft := 0, bufErr := some e } } := by
        rw [gather_failed, he, ← freshErr, ← Nat.sub_eq_zero_of_le last]
        rfl
      refine ⟨{ s.paint with bufLeft := 0, bufErr := some e }, rfl, ?_⟩
      rw [failed, answerOrderHead_failed hk loading last (congrArg (fun t => t.paint.bufErr) g), g]
    · have g : gather b off (some (named b data)) (freed tag s) =
          { freed tag s with paint := { s.paint with buf := head, bufLeft := 0, bufErr := some e } } := by
        rw [gather_ok, hhead, ← he, ← Nat.sub_eq_zero_of_le last]
        rfl
      refine ⟨{ s.paint with buf := head, bufLeft := 0, bufErr := some e }, rfl, ?_⟩
      rw [ok, answerOrderHead_failed hk loading last (congrArg (fun t => t.paint.bufErr) g), g]

/-! ### The end of an order -/

theorem statusBytes : StatusBytes where
  done := ⟨rfl, rfl⟩
  refused _ := ⟨rfl, rfl⟩
  fault := ⟨rfl, rfl⟩
  aborted := ⟨rfl, rfl⟩
  timedOut := ⟨rfl, rfl⟩
  noOutput := ⟨rfl, rfl⟩

theorem answerFinal_closes {b : Burst} {a : Answer} {h : Held} {f : FinalStatus} {s : State}
    (hh : s.paint.held = some h) (hp : h.phase = .closing) (hd : h.decided = some f) :
    answerFinal b a s = closeOrder h f a s := by
  simp [answerFinal, hh, hp, hd]

theorem notifies_iff (f : FinalStatus) : f.notifies = true ↔ f ≠ .fault ∧ f ≠ .aborted := by
  cases f <;> simp [FinalStatus.notifies]

/-- R146: PAINT_NOTIFY for a final status write that answered OK. -/
theorem notify_eq (h : Held) (f : FinalStatus) (s : State) :
    notify h f s =
      { s with
        regs :=
          if h.flags.getLsbD 0 = true ∧ f ≠ .fault ∧ f ≠ .aborted then
            { s.regs with events := s.regs.events ||| 0x100 }
          else s.regs } := by
  rw [notify, ← mask_paintNotify]
  simp only [Bool.and_eq_true, notifies_iff]
  split <;> rfl

/-- R122: a walk re-enabled meanwhile begins now. -/
theorem resumeWalk_begins {s : State} (h : s.paint.reenable = true) :
    resumeWalk s =
      { s with
        paint := { s.paint with engine := .loading, reenable := false }
        port :=
          { s.port with
            paint := s.port.paint ++ [burstAt .headPointer (s.regs.dirBase.toNat + 0x18) 4 []] } } := by
  rw [resumeWalk, if_pos h]
  rfl

theorem resumeWalk_rests {s : State} (h : s.paint.reenable = false) : resumeWalk s = s := by
  simp [resumeWalk, h]

theorem halt_eq (s : State) :
    halt s =
      { s with
        paint := { s.paint with engine := .halted }
        regs := { s.regs with events := s.regs.events ||| 0x200 } } := by
  rw [← mask_paintHalted]
  rfl

/-- Settles O47. -/
theorem finalStatusWriteResult : Obligations.FinalStatusWriteResult := by
  refine ⟨statusBytes, fun tag b h f s v ha hh hp hd hv => ?_⟩
  have isFinal : b.kind = .final := beq_iff_eq.mp (awaits_kind ha)
  have released : notify h f (releaseHeld (freed tag s)) = v := by
    rw [hv, notify_eq]
    rfl
  have base : v.regs.dirBase = s.regs.dirBase := by
    rw [← released]
    exact (notify_quiet h f _).dirBase
  have same : v.paint = { s.paint with held := none } ∧ v.port = (freed tag s).port := by
    rw [hv]
    exact ⟨rfl, rfl⟩
  have ok : exec (.finalStatusWriteResponse tag (.ok [])) s = .next (closeOrder h f (some []) (freed tag s)) :=
    (respond_written answerFinal ha (by rw [isFinal]; rfl)).trans (congrArg _ (answerFinal_closes hh hp hd))
  have failed : exec (.finalStatusWriteResponse tag .error) s = .next (closeOrder h f none (freed tag s)) :=
    (respond_error answerFinal ha).trans (congrArg _ (answerFinal_closes hh hp hd))
  rw [ok, failed, closeOrder, closeOrder, released]
  refine ⟨fun ho hf => ?_, fun ho hf => ?_, fun ho he => ?_, fun ho he => ?_, fun w hw => ⟨fun ho => ?_, fun ho he => ?_,
    fun ho he => ?_⟩⟩
  · rw [ho, if_neg Bool.false_ne_true, if_neg hf, hv]
    rfl
  · have regs : v.regs = s.regs := by
      rw [hv]
      exact if_neg fun k => k.2.1 hf
    rw [ho, if_neg Bool.false_ne_true, if_pos hf, halt_eq, regs]
  · rw [ho, if_pos rfl, resumeWalk_rests (by rw [same.1]; exact he)]
  · rw [ho, if_pos rfl, resumeWalk_begins (by rw [same.1]; exact he), base, same.2]
    rfl
  · rw [ho, if_neg Bool.false_ne_true, halt_eq, hw]
    rfl
  · rw [ho, if_pos rfl, resumeWalk_rests (by exact he), hw]
    rfl
  · rw [ho, if_pos rfl, resumeWalk_begins (by exact he), hw]
    rfl

/-! ### A waiting fence (R142) -/

theorem issueTimedOut_issues {h : Held} {s : State} (hh : s.paint.held = some h) (hp : h.phase = .running)
    (hd : h.decided = some .timedOut) : issueTimedOut s = tryFinish s := by
  simp [issueTimedOut, hh, hp, hd]

theorem issueTimedOut_other {s : State}
    (h : ∀ h, s.paint.held = some h → h.phase = .running → h.decided ≠ some .timedOut) : issueTimedOut s = s := by
  unfold issueTimedOut
  split
  next => rfl
  next x hx => exact if_neg (by simpa using h x hx)

/-- R142: what a latch point that counts brings the waiting fence `h` of `s`, seen in `u`. -/
def FenceCounted (h : Held) (value timeout : Word) (condition : Byte) (s u : State) : Prop :=
  (FenceHolds condition value u → FenceEnds .done h s u) ∧
    (¬FenceHolds condition value u →
      u.port.paint = s.port.paint ∧ (timeout = 0 → u.paint = s.paint) ∧
        (timeout ≠ 0 → s.paint.fenceCount + 1 ≠ timeout →
          u.paint = { s.paint with fenceCount := s.paint.fenceCount + 1 }) ∧
        (timeout ≠ 0 → s.paint.fenceCount + 1 = timeout →
          u.paint =
            { s.paint with
              engine := .executing, fenceCount := timeout, held := some { h with decided := some .timedOut } }))

theorem FenceHolds.congr {condition : Byte} {value : Word} {s u : State} (hl : u.loader = s.loader)
    (hs : u.scan.frameCounter = s.scan.frameCounter) :
    FenceHolds condition value u ↔ FenceHolds condition value s := by
  rw [FenceHolds, FenceHolds, hl, hs]

section
variable {h : Held} {condition : Byte} {value timeout : Word} {s : State} (he : s.paint.engine = .waiting)
  (hh : s.paint.held = some h) (ho : h.order = .fence condition value timeout)
include he hh ho

theorem latchPaint_fence :
    latchPaint true s =
      if fenceTrue condition value s then finish .done s
      else if timeout ≠ 0 then
        if s.paint.fenceCount + 1 = timeout then
          settleFinal .timedOut { s with paint := { s.paint with fenceCount := s.paint.fenceCount + 1 } }
        else { s with paint := { s.paint with fenceCount := s.paint.fenceCount + 1 } }
      else s := by
  rw [latchPaint, if_neg (by simp [he]), if_pos he, latchFence, hh]
  simp only [Option.map_some, ho, Bool.true_and, bne_iff_ne]
  rfl

theorem latchPaint_counted (hp : h.phase = .running) : FenceCounted h value timeout condition s (latchPaint true s) := by
  have quiet := latchPaint_paintOnly true s
  rw [FenceCounted, FenceHolds.congr quiet.loader (congrArg _ quiet.scan), ← fenceTrue_iff, latchPaint_fence he hh ho]
  refine ⟨fun k => ?_, fun k => ?_⟩
  · rw [if_pos k]
    exact finish_ends hh hp
  · rw [if_neg k]
    refine ⟨?_, fun h0 => ?_, fun h0 h1 => ?_, fun h0 h1 => ?_⟩
    · split
      · split <;> rfl
      · rfl
    · rw [if_neg (not_not.mpr h0)]
    · rw [if_pos h0, if_neg h1]
    · rw [if_pos h0, if_pos h1, settleFinal, modHeld_some (h := h) (by exact hh), ← h1]
      rfl

end

theorem FenceCounted.congr {h : Held} {value timeout : Word} {condition : Byte} {s s' u u' : State}
    (k : FenceCounted h value timeout condition s u) (hp : s'.paint = s.paint) (hb : s'.port.paint = s.port.paint)
    (hw : s'.port.write = s.port.write) (up : u'.paint = u.paint) (ub : u'.port.paint = u.port.paint)
    (ul : u'.loader.hasShown = u.loader.hasShown ∧ u'.loader.shownSeq = u.loader.shownSeq)
    (uf : u'.scan.frameCounter = u.scan.frameCounter) : FenceCounted h value timeout condition s' u' := by
  obtain ⟨ends, waits⟩ := k
  have same : FenceHolds condition value u' ↔ FenceHolds condition value u := by
    rw [FenceHolds, FenceHolds, ul.1, ul.2, uf]
  refine ⟨fun k => (ends (same.mp k)).congr hp hb hw up ub, fun k => ?_⟩
  rw [up, ub, hp, hb]
  exact waits (same.not.mp k)

/-- R142: the write of a TIMED_OUT decided at a latch point is issued by the step FENCE_TIMED_OUT (log entry 7). -/
theorem exec_fenceTimedOut {h : Held} {s : State} (hr : s.resetHeld = false) (hh : s.paint.held = some h)
    (hp : h.phase = .running) (hd : h.decided = some .timedOut) :
    (¬WriteWaits s → exec .fenceTimedOut s = .next (finalIssued .timedOut h s)) ∧
      (WriteWaits s → exec .fenceTimedOut s = .next s) := by
  have run : exec .fenceTimedOut s = .next (tryFinish s) :=
    (live_running hr).trans (congrArg _ (issueTimedOut_issues hh hp hd))
  rw [run]
  exact ⟨fun k => congrArg _ (tryFinish_closes hh (.inl hp) hd ((not_writeWaits_iff s).mp k)),
    fun k => congrArg _ (tryFinish_waits ((writeWaits_iff s).mp k))⟩

/-- R142: a latch point of RUNNING or PARKING counts for the waiting fence. -/
theorem latch_counted {t : Timing} {lp : LinePos} {h : Held} {condition : Byte} {value timeout : Word} {s : State}
    (hr : s.resetHeld = false) (hs : s.scan.output.sends = true) (ht : s.scan.timing = some t)
    (hl : s.scan.line = some lp) (hd : lp.latchDue = true) (he : s.paint.engine = .waiting)
    (hh : s.paint.held = some h) (hp : h.phase = .running) (ho : h.order = .fence condition value timeout) :
    ∃ u, exec .latchPoint s = .next u ∧ u.resetHeld = false ∧ u.port.write = s.port.write ∧
      FenceCounted h value timeout condition s u := by
  obtain ⟨running, parking⟩ := exec_latchPoint hr ht hl hd
  have sending : s.scan.output = .running ∨ s.scan.output = .parking := by
    simpa [OutputState.sends] using hs
  rcases sending with k | k
  · obtain ⟨ep, eb, ew⟩ := beginLoad_paint (s := s) (g := decideMark t (advanceFrame lp s)) rfl rfl
    have quiet := latchPaint_paintOnly true (beginLoad (decideMark t (advanceFrame lp s)))
    have counted := latchPaint_counted (s := beginLoad (decideMark t (advanceFrame lp s))) (by rw [ep, he])
      (by rw [ep, hh]) ho hp
    exact ⟨_, running k, quiet.resetHeld.trans ((beginLoad_quiet _).resetHeld.trans hr), quiet.pwrite.trans ew,
      counted.congr ep.symm eb.symm ew.symm rfl rfl ⟨rfl, rfl⟩ rfl⟩
  · have quiet := latchPaint_paintOnly true (advanceFrame lp s)
    have counted := latchPaint_counted (s := advanceFrame lp s) he hh ho hp
    exact ⟨_, parking k, quiet.resetHeld.trans hr, quiet.pwrite, counted.congr rfl rfl rfl rfl rfl ⟨rfl, rfl⟩ rfl⟩

/-- Settles O48. -/
theorem waitingFenceResult : Obligations.WaitingFenceResult := by
  refine ⟨fun s => ⟨fun h hr => exec_fenceTimedOut hr, fun k => live_ignored (issueTimedOut_other k)⟩, ?_⟩
  intro t lp h condition value timeout s hr hs ht hl hd he hh hp hn ho
  have undecided : ∀ x, s.paint.held = some x → x.phase = .running → x.decided ≠ some .timedOut := by
    intro x hx _
    obtain rfl := Option.some.inj (hh.symm.trans hx)
    simp [hn]
  refine ⟨?_, live_ignored (issueTimedOut_other undecided)⟩
  obtain ⟨u, run, hru, hw, ends, waits⟩ := latch_counted hr hs ht hl hd he hh hp ho
  refine ⟨u, run, ends, fun k => ?_⟩
  obtain ⟨hb, untimed, counts, expires⟩ := waits k
  refine ⟨hb, untimed, counts, fun h0 h1 => ?_⟩
  have whole := expires h0 h1
  have same := orderWritesOpen_congr hb hw
  have decided : u.paint.held = some { h with decided := some .timedOut } := by rw [whole]
  obtain ⟨issued, held⟩ := exec_fenceTimedOut hru decided hp rfl
  rw [writeWaits_iff, same, ← writeWaits_iff] at issued held
  refine ⟨whole, fun free => ?_, held⟩
  rw [issued free, finalIssued, closingWith, whole]

end Sys2Proof.Machine
end


section
/-! Ordered checks: the first of a list of checks that fails (R35, R130). -/

namespace Sys2Proof.Machine

theorem not_firstOf_nil (fails : Code → Prop) (code : Code) : ¬FirstOf [] fails code := by
  rintro ⟨pre, post, e, -, -⟩
  simp at e

theorem firstOf_cons (c : Code) (cs : List Code) (fails : Code → Prop) (code : Code) :
    FirstOf (c :: cs) fails code ↔ (fails c ∧ code = c) ∨ (¬fails c ∧ FirstOf cs fails code) := by
  constructor
  · rintro ⟨pre, post, e, failed, passed⟩
    cases pre with
    | nil =>
      obtain ⟨rfl, -⟩ := List.cons_eq_cons.mp e
      exact .inl ⟨failed, rfl⟩
    | cons d pre =>
      obtain ⟨rfl, rfl⟩ := List.cons_eq_cons.mp e
      exact .inr ⟨passed c List.mem_cons_self, pre, post, rfl, failed, fun x hx => passed x (List.mem_cons_of_mem _ hx)⟩
  · rintro (⟨failed, rfl⟩ | ⟨first, pre, post, rfl, failed, passed⟩)
    · exact ⟨[], cs, rfl, failed, fun x hx => absurd hx List.not_mem_nil⟩
    · exact ⟨c :: pre, post, rfl, failed, List.forall_mem_cons.mpr ⟨first, passed⟩⟩

/-- `found` is what a chain of tests finds: the first of the checks `cs` that fails, or none. -/
def FindsFirst (cs : List Code) (fails : Code → Prop) (found : Option Code) : Prop :=
  (∀ code, found = some code ↔ FirstOf cs fails code) ∧ (found = none ↔ ∀ code ∈ cs, ¬fails code)

theorem findsFirst_nil (fails : Code → Prop) : FindsFirst [] fails none :=
  ⟨fun code => ⟨fun h => absurd h (by simp), fun h => absurd h (not_firstOf_nil fails code)⟩, by simp⟩

/-- One more test in front of a chain. -/
theorem FindsFirst.test {cs : List Code} {fails : Code → Prop} {found : Option Code} {p : Prop} [Decidable p] {c : Code}
    (hc : p ↔ fails c) (h : FindsFirst cs fails found) : FindsFirst (c :: cs) fails (if p then some c else found) := by
  obtain ⟨some_iff, none_iff⟩ := h
  by_cases hp : p
  · have failed := hc.mp hp
    refine ⟨fun code => ?_, ?_⟩
    · rw [if_pos hp, firstOf_cons]
      simp [failed, eq_comm]
    · rw [if_pos hp]
      simp [failed]
  · have passed := hc.not.mp hp
    refine ⟨fun code => ?_, ?_⟩
    · rw [if_neg hp, firstOf_cons, some_iff]
      simp [passed]
    · rw [if_neg hp, none_iff]
      simp [passed]

end Sys2Proof.Machine
end

section
/-! The fields and the checks of an order, its overlap with the in-view table, and its remainder read (R114, R129 to R139,
R186). -/

namespace Sys2Proof.Machine

/-! ### The fields of an order -/

theorem u8_drop (l : List Byte) (n o : Nat) : u8 (l.drop n) o = u8 l (n + o) := by
  simp [u8, List.getD_eq_getElem?_getD]

theorem u16_drop (l : List Byte) (n o : Nat) : u16 (l.drop n) o = u16 l (n + o) := by
  simp only [u16, u8_drop, Nat.add_assoc]

theorem u32_drop (l : List Byte) (n o : Nat) : u32 (l.drop n) o = u32 l (n + o) := by
  simp only [u32, u8_drop, Nat.add_assoc]

theorem colourAt_drop (l : List Byte) (n o : Nat) : colourAt (l.drop n) o = colourAt l (n + o) := by
  simp only [colourAt, u8_drop, Nat.add_assoc]

theorem orderFields (r : List Byte) : OrderFields r where
  copy := by
    change Order.copy (parseCopy (r.drop 12)) = _
    simp only [parseCopy, flagAt, u8_drop, u16_drop, u32_drop]
  fill := by
    change Order.fill (parseFill (r.drop 12)) = _
    simp only [parseFill, u8_drop, u16_drop, u32_drop, colourAt_drop]
  fence := by
    change Order.fence (u8 (r.drop 12) 0) (u32 (r.drop 12) 4) (u32 (r.drop 12) 8) = _
    simp only [u8_drop, u32_drop]
  stamp := by
    change Order.stamp (u32 (r.drop 12) 0) (u32 (r.drop 12) 4) = _
    simp only [u32_drop]
  other kind h := by
    unfold parseOrder
    split <;> first | omega | rfl

/-! ### The checks of an order -/

theorem alignBad_iff (f : OrderSurface) : f.alignBad = true ↔ BaseOrPitchBad f := by
  simp [OrderSurface.alignBad, BaseOrPitchBad, or_assoc]

theorem formatBad_iff (b : Byte) : formatBad b = true ↔ b ≠ 1 ∧ b ≠ 2 := by
  simp [formatBad]

theorem geometryBad_iff (f : OrderSurface) : f.geometryBad = true ↔ SurfaceBad f := by
  have top (n : Nat) : 2 ^ 32 ≤ n ↔ 0xFFFFFFFF < n := by omega
  simp only [OrderSurface.geometryBad, SurfaceBad, Bool.or_eq_true, decide_eq_true_eq, beq_iff_eq, or_assoc,
    top]
  rfl

theorem rectBad_iff (r : Rect) (f : OrderSurface) : rectBad r f = true ↔ RectBad r f := by
  simp [rectBad, RectBad, or_assoc]

theorem turned_iff (c : CopyFields) : c.turned = true ↔ c.rotation = 1 ∨ c.rotation = 3 := by
  simp [CopyFields.turned]

theorem dstW_eq (c : CopyFields) : c.dstW = (copyTarget c).w := by
  simp only [CopyFields.dstW, turned_iff, copyTarget]

theorem dstH_eq (c : CopyFields) : c.dstH = (copyTarget c).h := by
  simp only [CopyFields.dstH, turned_iff, copyTarget]

theorem dstRect_eq (c : CopyFields) : c.dstRect = copyTarget c := by
  rw [CopyFields.dstRect, dstW_eq, dstH_eq]
  rfl

theorem sameSurface_iff (c : CopyFields) :
    c.sameSurface = true ↔ c.src.base = c.dst.base ∧ c.src.pitch = c.dst.pitch := by
  simp [CopyFields.sameSurface]

/-- R136: an overlapping COPY. -/
theorem overlapping_iff (c : CopyFields) :
    c.overlapping = true ↔
      (c.src.base = c.dst.base ∧ c.src.pitch = c.dst.pitch) ∧
        ∃ x y, InRect x y (copySource c) ∧ InRect x y (copyTarget c) := by
  rw [CopyFields.overlapping, Bool.and_eq_true, sameSurface_iff, Rect.intersects_iff, dstRect_eq]
  rfl

theorem orderAlignBad_iff (o : Order) : o.alignBad = true ↔ OrderFails o .alignBad := by
  cases o with
  | copy c => simp [Order.alignBad, OrderFails, alignBad_iff]
  | fill f => exact alignBad_iff f.dst
  | fence => simp [Order.alignBad, OrderFails]
  | stamp => simp [Order.alignBad, OrderFails]
  | unknown => simp [Order.alignBad, OrderFails]

theorem orderFormatBad_iff (o : Order) : o.formatBad = true ↔ OrderFails o .formatBad := by
  cases o with
  | copy c => simp [Order.formatBad, OrderFails, formatBad_iff, or_assoc]
  | fill f => exact formatBad_iff f.dst.format
  | fence => simp [Order.formatBad, OrderFails]
  | stamp => simp [Order.formatBad, OrderFails]
  | unknown => simp [Order.formatBad, OrderFails]

theorem orderGeometryBad_iff (o : Order) : o.geometryBad = true ↔ OrderFails o .geometryBad := by
  cases o with
  | copy c =>
    simp only [Order.geometryBad, OrderFails, Bool.or_eq_true, geometryBad_iff, rectBad_iff, dstRect_eq, or_assoc]
    rfl
  | fill f => simp [Order.geometryBad, OrderFails, geometryBad_iff, rectBad_iff]
  | fence => simp [Order.geometryBad, OrderFails]
  | stamp => simp [Order.geometryBad, OrderFails]
  | unknown => simp [Order.geometryBad, OrderFails]

theorem orderOverlapBad_iff (o : Order) : o.overlapBad = true ↔ OrderFails o .overlapBad := by
  cases o with
  | copy c =>
    have differs : (c.rotation != 0 || c.mirror || c.src.format != c.dst.format) = true ↔
        ¬(c.rotation = 0 ∧ c.mirror = false ∧ c.src.format = c.dst.format) := by
      simp only [Bool.or_eq_true, bne_iff_ne, not_and_or, Bool.not_eq_false, or_assoc]
    rw [Order.overlapBad, Bool.and_eq_true, overlapping_iff, differs]
    simp only [OrderFails, and_assoc]
  | fill => simp [Order.overlapBad, OrderFails]
  | fence => simp [Order.overlapBad, OrderFails]
  | stamp => simp [Order.overlapBad, OrderFails]
  | unknown => simp [Order.overlapBad, OrderFails]

theorem orderKindBad_iff (o : Order) : o = .unknown ↔ OrderFails o .kindBad := by
  cases o <;> simp [OrderFails]

/-- R130: the checks of an order are taken in their order. -/
theorem order_findsFirst (o : Order) : FindsFirst orderChecks (OrderFails o) o.firstFailing :=
  .test (orderKindBad_iff o) (.test (orderAlignBad_iff o) (.test (orderFormatBad_iff o)
    (.test (orderGeometryBad_iff o) (.test (orderOverlapBad_iff o) (findsFirst_nil _)))))

/-! ### The overlap with the in-view table (R139) -/

theorem target_iff (o : Order) (f : OrderSurface) (r : Rect) : o.target = some (f, r) ↔ Paints o f r := by
  cases o <;> simp [Order.target, Paints, dstRect_eq, eq_comm]

theorem inView_iff (o : Order) (vs : List ViewEntry) : o.inView vs = true ↔ Overlaps o vs := by
  have byTarget : Overlaps o vs ↔ ∃ f r, o.target = some (f, r) ∧
      (vs.any fun e => e.base == f.base && e.pitch == f.pitch && e.rect.intersects r) = true := by
    simp only [Overlaps, target_iff, List.any_eq_true, Bool.and_eq_true, beq_iff_eq, Rect.intersects_iff, and_assoc]
  rw [byTarget, Order.inView]
  cases o.target with
  | none => simp
  | some t =>
    obtain ⟨f, r⟩ := t
    simp

theorem inView_target {o : Order} {vs : List ViewEntry} (h : o.inView vs = true) :
    (∃ c, o = .copy c) ∨ ∃ f, o = .fill f := by
  cases o with
  | copy c => exact .inl ⟨c, rfl⟩
  | fill f => exact .inr ⟨f, rfl⟩
  | fence => exact absurd h (by simp [Order.inView, Order.target])
  | stamp => exact absurd h (by simp [Order.inView, Order.target])
  | unknown => exact absurd h (by simp [Order.inView, Order.target])

/-! ### Rows -/

theorem startRow_fill {h : Held} {f : FillFields} {s : State} (hh : s.paint.held = some h) (ho : h.order = .fill f) :
    startRow s = issuePaint (rowWrites f.dst f.rect.x (f.rect.y + h.row) f.rowBytes) s := by
  simp only [startRow, hh, ho]

/-- R137: the order `h` with an empty row buffer, before the reads of its next row. -/
def emptyRow (c : CopyFields) (h : Held) : Held :=
  { h with
    src := List.replicate (c.rowPixels * formatBytes c.src.format) 0, srcLeft := (c.rowReads (c.rowIndex h.row)).length }

theorem startRow_copy {h : Held} {c : CopyFields} {s : State} (hh : s.paint.held = some h) (ho : h.order = .copy c) :
    startRow s =
      issuePaint (c.rowReads (c.rowIndex h.row)) { s with paint := { s.paint with held := some (emptyRow c h) } } := by
  simp only [startRow, hh, ho, modHeld_some hh, emptyRow]

theorem emptyRow_length (c : CopyFields) (h : Held) :
    (emptyRow c h).src.length =
      (if c.rotation = 1 ∨ c.rotation = 3 then c.h else c.w) * formatBytes c.src.format := by
  simp only [emptyRow, List.length_replicate, CopyFields.rowPixels, turned_iff]

/-! ### An order carried out -/

section
variable {h : Held} {s : State}

theorem carryOut_held (hv : h.order.inView s.loader.inView = true) (hf : h.flags.getLsbD 1 = false) :
    carryOut h s = setEngine .held (issueActive h s) := by
  have stays : (h.order.inView s.loader.inView && !h.flags.getLsbD 1) = true := by simp only [hv, hf]; rfl
  rcases inView_target hv with ⟨c, ho⟩ | ⟨f, ho⟩
  · unfold carryOut
    rw [ho] at stays ⊢
    exact if_pos stays
  · unfold carryOut
    rw [ho] at stays ⊢
    exact if_pos stays

theorem carryOut_begins (hv : h.order.inView s.loader.inView = false ∨ h.flags.getLsbD 1 = true)
    (ho : (∃ c, h.order = .copy c) ∨ ∃ f, h.order = .fill f) : carryOut h s = startRow (issueActive h s) := by
  have free : ¬((h.order.inView s.loader.inView && !h.flags.getLsbD 1) = true) := by
    rcases hv with hv | hv <;> simp [hv]
  rcases ho with ⟨c, ho⟩ | ⟨f, ho⟩
  · unfold carryOut
    rw [ho] at free ⊢
    exact if_neg free
  · unfold carryOut
    rw [ho] at free ⊢
    exact if_neg free

theorem carryOut_fence {condition : Byte} {value timeout : Word} (ho : h.order = .fence condition value timeout) :
    carryOut h s =
      if fenceTrue condition value s then finish .done s
      else setEngine .waiting (issueActive h { s with paint := { s.paint with fenceCount := 0 } }) := by
  unfold carryOut
  rw [ho]
  rfl

theorem carryOut_stamp {target token : Word} (ho : h.order = .stamp target token) :
    carryOut h s =
      issuePaint [burstAt .stamp target.toNat 8 (le32 token ++ le32 s.scan.frameCounter)] s := by
  unfold carryOut
  rw [ho]

end

/-! ### The remainder read -/

section
variable {b : Burst} {off : Nat} {h : Held} {data : List Byte} {s : State} (hk : b.kind = .remainder off)
  (hh : s.paint.held = some h) (hp : h.phase = .seen)
include hk hh hp

theorem answerRemainder_waits (hb : 2 ≤ s.paint.bufLeft) :
    answerRemainder b (some data) s = gather b off (some data) s := by
  have more : (gather b off (some data) s).paint.bufLeft ≠ 0 := by
    change s.paint.bufLeft - 1 ≠ 0
    omega
  simp [answerRemainder, hk, hh, hp, more]

theorem answerRemainder_read {rem : List Byte} (hb : s.paint.bufLeft ≤ 1) (hr : rem = putBytes s.paint.buf off data) :
    answerRemainder b (some data) s =
      beginOrder (parseOrder h.kind rem) { s with paint := { s.paint with buf := rem, bufLeft := 0 } } := by
  have last : gather b off (some data) s = { s with paint := { s.paint with buf := rem, bufLeft := 0 } } := by
    rw [gather_ok, Nat.sub_eq_zero_of_le hb, hr]
  simp [answerRemainder, hk, hh, hp, last]

theorem answerRemainder_failed : answerRemainder b none s = faultHeld b.addr s := by
  simp [answerRemainder, hk, hh, hp]

end

theorem issuePaint_issuePaint (as bs : List Burst) (s : State) :
    issuePaint bs (issuePaint as s) = issuePaint (as ++ bs) s := by
  simp [issuePaint, State.modPort]

theorem heldIssues_none (e : EngineState) (h : Held) (s : State) :
    heldIssues e h [] s = { s with paint := { s.paint with engine := e, held := some h } } := by
  rw [heldIssues, List.append_nil]

/-- `u` with the order `h` held and its engine EXECUTING (R114). -/
def executing (h : Held) (u : State) : State :=
  { u with paint := { u.paint with engine := .executing, held := some h } }

section
variable {h : Held} {u : State}

theorem executing_closes {f : FinalStatus} (hp : h.phase = .running) (hw : orderWritesOpen u = false) :
    finish f (executing h u) = closingWith f h u :=
  finish_closes (s := executing h u) rfl hp hw

theorem executing_waits {f : FinalStatus} (hw : orderWritesOpen u = true) :
    finish f (executing h u) = heldIssues .executing { h with decided := some f } [] u :=
  (finish_waits (s := executing h u) rfl hw).trans (heldIssues_none _ _ u).symm

/-- R137: the row of a COPY begun behind the ACTIVE write. -/
theorem executing_copies {c : CopyFields} (ho : h.order = .copy c) :
    startRow (issueActive h (executing h u)) =
      heldIssues .executing (emptyRow c h)
        (statusWordBurst .active h.addr 2 .none :: c.rowReads (c.rowIndex h.row)) u := by
  rw [startRow_copy (s := issueActive h (executing h u)) rfl ho]
  exact issuePaint_issuePaint _ _ (executing (emptyRow c h) u)

/-- R138: the row of a FILL begun behind the ACTIVE write. -/
theorem executing_fills {f : FillFields} (ho : h.order = .fill f) :
    startRow (issueActive h (executing h u)) =
      heldIssues .executing h
        (statusWordBurst .active h.addr 2 .none :: rowWrites f.dst f.rect.x (f.rect.y + h.row) f.rowBytes) u := by
  rw [startRow_fill (s := issueActive h (executing h u)) rfl ho]
  exact issuePaint_issuePaint _ _ (executing h u)

end

/-- Settles O43: the last burst of a remainder is `beginOrder`, whose outcomes are told by the first failing check and by
the order's kind. -/
theorem remainderReadResult : Obligations.RemainderReadResult := by
  refine ⟨orderFields, fun o => ⟨(order_findsFirst o).1, (order_findsFirst o).2, fun vs => inView_iff o vs⟩, ?_⟩
  intro tag off data rem b h h' s ha hk hl hh hp hrem hh'
  have ok : exec (.remainderReadResponse tag (.ok data)) s = .next (answerRemainder b (some (named b data)) (freed tag s)) :=
    respond_ok answerRemainder ha hl
  rw [ok]
  refine ⟨fun more => ?_, fun u hu last => ?_⟩
  · rw [answerRemainder_waits (s := freed tag s) hk hh hp more, gather_ok, hrem]
    rfl
  have held : u.paint.held = some h := by rw [hu]; exact hh
  have order : parseOrder h.kind rem = h'.order := by rw [hh']
  have begins : answerRemainder b (some (named b data)) (freed tag s) = beginOrder h'.order u := by
    rw [← order, hu]
    exact answerRemainder_read (s := freed tag s) hk hh hp last hrem
  have running : ({ h with order := h'.order, phase := .running } : Held) = h' := by rw [hh']
  have phase : h'.phase = .running := by rw [hh']
  have flags : h'.flags = h.flags := by rw [hh']
  have addr : h'.addr = h.addr := by rw [hh']
  have row : h'.row = h.row := by rw [hh']
  have view : u.loader.inView = s.loader.inView := by rw [hu]; rfl
  have holds (c : Byte) (v : Word) : FenceHolds c v u ↔ FenceHolds c v s := FenceHolds.congr (by rw [hu]; rfl) (by rw [hu]; rfl)
  have closed : ¬WriteWaits s → orderWritesOpen u = false := fun k => by
    rw [hu]
    exact orderWritesOpen_freed ((not_writeWaits_iff s).mp k)
  have waiting : WriteWaits u → orderWritesOpen u = true := (writeWaits_iff u).mp
  have active : statusWordBurst .active h'.addr 2 .none = burstAt .active (h.addr.toNat + 4) 4 [2, 0, 0, 0] := by
    rw [addr]
    rfl
  rw [begins]
  refine ⟨fun code hf => ?_, fun hf => ?_⟩
  · have refusal : beginOrder h'.order u = finish (.refused code) (executing h' u) := by
      rw [beginOrder_refused held hf, running, executing]
    rw [refusal]
    exact ⟨fun k => congrArg _ (executing_closes phase (closed k)), fun k => congrArg _ (executing_waits (waiting k))⟩
  have carried : beginOrder h'.order u = carryOut h' (executing h' u) := by
    rw [beginOrder_passed held hf, running, executing]
  rw [carried]
  refine ⟨fun hv hn => ?_, fun hv => ?_, fun condition value timeout ho => ?_, fun target token ho => ?_⟩
  · rw [carryOut_held (s := executing h' u) (by rw [← hv, ← view]; rfl) (by rw [flags, hn]), ← active]
    rfl
  · rw [← view, ← flags] at hv
    have begun := carryOut_begins (s := executing h' u) hv
    refine ⟨fun f ho => ?_, fun c ho => ⟨_, emptyRow c h', ?_, rfl, ?_, emptyRow_length c h'⟩⟩
    · rw [begun (.inr ⟨f, ho⟩), executing_fills ho, active, row]
    · rw [begun (.inl ⟨c, ho⟩), executing_copies ho, active, row]
    · rw [emptyRow, row]
  · have test : fenceTrue condition value (executing h' u) = true ↔ FenceHolds condition value s :=
      (fenceTrue_iff _ _ _).trans (holds condition value)
    rw [carryOut_fence ho]
    refine ⟨fun k => ?_, fun k => ?_⟩
    · rw [if_pos (test.mpr k)]
      exact ⟨fun w => congrArg _ (executing_closes phase (closed w)), fun w => congrArg _ (executing_waits (waiting w))⟩
    · rw [if_neg (test.not.mpr k), ← active]
      rfl
  · rw [carryOut_stamp ho, hu]
    rfl

end Sys2Proof.Machine
end

section
/-! The reads and writes of an order in RUNNING: its rows, its ACTIVE and STAMP writes, and an ERROR on one of them (R121,
R124, R137, R138, R144, R145). -/

namespace Sys2Proof.Machine

/-- An OK for an order of the walk, its final status not decided, is what its block makes of it. -/
theorem answerHeld_goes {b : Burst} {data : List Byte} {g : Held → State → State} {h : Held} {s : State}
    (hh : s.paint.held = some h) (hp : h.phase = .running) (hd : h.decided = none) :
    answerHeld b (some data) g s = g h s := by
  simp [answerHeld, hh, hp, hd]

theorem answerHeld_faults {b : Burst} {g : Held → State → State} {h : Held} {s : State} (hh : s.paint.held = some h)
    (hp : h.phase = .running) (ho : h.oldWalk = false) : answerHeld b none g s = faultHeld b.addr s := by
  simp [answerHeld, hh, hp, ho]

/-! ### Rows (R137, R138) -/

section
variable {h : Held} {s : State} (hh : s.paint.held = some h)
include hh

theorem takeSource_gathers {off : Nat} {data : List Byte} (hl : 2 ≤ h.srcLeft) :
    takeSource off data h s =
      { s with
        paint :=
          { s.paint with held := some { h with src := putBytes h.src off data, srcLeft := h.srcLeft - 1 } } } := by
  unfold takeSource
  rw [if_neg (by dsimp only; omega), modHeld_some hh]

theorem takeSource_writes {off : Nat} {data : List Byte} {c : CopyFields} {src : List Byte} (hl : h.srcLeft ≤ 1)
    (ho : h.order = .copy c) (hs : src = putBytes h.src off data) :
    takeSource off data h s =
      heldIssues s.paint.engine { h with src := src, srcLeft := 0 }
        (rowWrites c.dst c.dx (c.dy + c.rowIndex h.row) (c.rowBytes src (c.rowIndex h.row))) s := by
  have last : h.srcLeft - 1 = 0 := Nat.sub_eq_zero_of_le hl
  unfold takeSource
  rw [if_pos last, modHeld_some hh, last, ← hs]
  simp only [writeRow, ho]
  rfl

/-- The next row of an order is begun, its count of rows advanced (R137). -/
theorem nextRow_starts (hr : h.row + 1 < h.order.rows) :
    nextRow h s = startRow { s with paint := { s.paint with held := some { h with row := h.row + 1 } } } := by
  rw [nextRow, if_pos hr, modHeld_some hh]

theorem nextRow_ends (hp : h.phase = .running) (hr : h.order.rows ≤ h.row + 1) (hw : orderWritesOpen s = false) :
    nextRow h s = closingWith .done { h with row := h.row + 1 } s := by
  rw [nextRow, if_neg (Nat.not_lt.mpr hr), modHeld_some hh]
  exact finish_closes (h := { h with row := h.row + 1 }) rfl hp hw

end

/-- Settles O44. -/
theorem copyAndFillRowsResult : Obligations.CopyAndFillRowsResult := by
  intro tag data b h s hh hp hd
  have held : (freed tag s).paint.held = some h := hh
  refine ⟨fun off c src ha hk hl ho hsrc => ?_, fun ha => ?_⟩
  · have ok : exec (.copyReadResponse tag (.ok data)) s = .next (takeSource off (named b data) h (freed tag s)) := by
      refine (respond_ok answerCopyRead ha hl).trans (congrArg _ ?_)
      simp only [answerCopyRead, hk]
      exact answerHeld_goes held hp hd
    rw [ok]
    refine ⟨fun more => ?_, fun last => congrArg _ (takeSource_writes held last ho hsrc)⟩
    rw [takeSource_gathers held more, hsrc]
    rfl
  · have isPixel : b.kind = .pixel := beq_iff_eq.mp (awaits_kind ha)
    have ok : exec (.pixelWriteResponse tag (.ok [])) s = .next (rowWritten h (freed tag s)) :=
      (respond_written answerPixel ha (by rw [isPixel]; rfl)).trans (congrArg _ (answerHeld_goes held hp hd))
    rw [ok]
    refine ⟨fun k => congrArg _ (if_pos ((writeWaits_iff _).mp k)), fun k => ?_⟩
    have closed := (not_writeWaits_iff _).mp k
    have done : rowWritten h (freed tag s) = nextRow h (freed tag s) := if_neg (by simp [closed])
    rw [done]
    refine ⟨fun f ho more => ?_, fun c ho more => ?_, fun last => congrArg _ (nextRow_ends held hp last closed)⟩
    · rw [nextRow_starts held (by rw [ho]; exact more), startRow_fill (h := { h with row := h.row + 1 }) rfl ho]
      rfl
    · refine ⟨_, emptyRow c { h with row := h.row + 1 }, ?_, rfl, rfl, emptyRow_length c _⟩
      rw [nextRow_starts held (by rw [ho]; exact more), startRow_copy (h := { h with row := h.row + 1 }) rfl ho]
      rfl

/-! ### The ACTIVE and STAMP writes (R144, R145) -/

/-- R115, R145: a decided final status is issued when no write of the order waits. -/
theorem tryFinish_decided {f : FinalStatus} {h : Held} {s : State} (hh : s.paint.held = some h)
    (hp : h.phase = .running ∨ h.phase = .faulted) (hd : h.decided = some f) :
    (WriteWaits s → tryFinish s = s) ∧ (¬WriteWaits s → tryFinish s = finalIssued f h s) :=
  ⟨fun k => tryFinish_waits ((writeWaits_iff s).mp k),
    fun k => tryFinish_closes hh hp hd ((not_writeWaits_iff s).mp k)⟩

/-- A final status issued by an engine that is EXECUTING (R115). -/
theorem finalIssued_closing {f : FinalStatus} {h : Held} {s : State} (hd : h.decided = some f)
    (he : s.paint.engine = .executing) : finalIssued f h s = closingWith f h s := by
  rw [finalIssued, closingWith, ← hd, ← he]

theorem running_ok {c : Nat → Response → Instr} {k : BurstKind → Bool} {tag : Nat} {data : List Byte} {b : Burst}
    {h : Held} {f : FinalStatus} {s : State} (hh : s.paint.held = some h) (hc : (c, k) ∈ runningResponses)
    (ha : Awaits k tag b s) (hl : b.kind.isWrite = false → data.length = beatBytes b)
    (hp : h.phase = .running ∨ h.phase = .faulted) (hd : h.decided = some f) :
    exec (c tag (.ok data)) s = .next (tryFinish (freed tag s)) := by
  have fit : responseFits b (.ok data) = true := by
    cases hw : b.kind.isWrite with
    | true => exact responseFits_write data hw
    | false => simp [responseFits, hl hw]
  obtain ⟨g, run⟩ := running_answered hc ha fit
  exact run.trans (congrArg _ (answerHeld_decided (s := freed tag s) hh hp hd))

/-- Settles O45. -/
theorem activeAndStampResult : Obligations.ActiveAndStampResult := by
  intro tag b h s hh
  have held : (freed tag s).paint.held = some h := hh
  refine ⟨fun c k data f hc ha hl hp hd => ?_, fun hp ha => ⟨fun hd => ?_, fun f hd => ?_⟩, fun hp ha hd => ?_⟩
  · obtain ⟨waits, issued⟩ := tryFinish_decided held hp hd
    rw [running_ok hh hc ha hl hp hd]
    exact ⟨fun w => congrArg _ (waits w), fun w => congrArg _ (issued w)⟩
  · have isActive : b.kind = .active := beq_iff_eq.mp (awaits_kind ha)
    exact (respond_written answerActive ha (by rw [isActive]; rfl)).trans (congrArg _ (answerHeld_goes held hp hd))
  · have isActive : b.kind = .active := beq_iff_eq.mp (awaits_kind ha)
    obtain ⟨waits, issued⟩ := tryFinish_decided held (.inl hp) hd
    rw [running_ok (c := .activeWriteResponse) hh (by simp [runningResponses]) ha
      (by rw [isActive]; exact fun k => absurd k (by decide)) (.inl hp) hd]
    exact ⟨fun w => congrArg _ (waits w), fun w he => congrArg _ ((issued w).trans (finalIssued_closing hd he))⟩
  · have isStamp : b.kind = .stamp := beq_iff_eq.mp (awaits_kind ha)
    have ok : exec (.stampWriteResponse tag (.ok [])) s = .next (finish .done (freed tag s)) :=
      (respond_written answerStamp ha (by rw [isStamp]; rfl)).trans (congrArg _ (answerHeld_goes held hp hd))
    rw [ok]
    refine ⟨fun w => congrArg _ (finish_closes held hp ((not_writeWaits_iff _).mp w)), fun w => congrArg _ ?_⟩
    rw [finish_waits held ((writeWaits_iff _).mp w), heldIssues_none]

/-! ### An ERROR on a read or write of the held order (R121, R124) -/

/-- R124: the held order `h` FAULTED, its bursts withdrawn, before its final status is issued. -/
def faultedState (addr : Word) (h : Held) (s : State) : State :=
  { s with
    paint := { s.paint with engine := .executing, held := some { h with phase := .faulted, decided := some .fault } }
    fault :=
      { s.fault with
        reports :=
          s.fault.reports ++
            [{ source := .paint, code := .busFault, slot := none, window := none, seq := 0, addr := addr }] }
    port :=
      { s.port with
        paint := s.port.paint.filter fun b => b.kind == .final
        reads :=
          s.port.reads.map fun pl =>
            if pl.burst.kind.requester = .paint then { pl with burst := { pl.burst with dropped := true } } else pl } }

theorem faultHeld_eq {addr : Word} {h : Held} {s : State} (hh : s.paint.held = some h) :
    faultHeld addr s = tryFinish (faultedState addr h s) := by
  rw [faultHeld, modHeld_some (h := h) (by exact hh), faultedState]
  simp only [← beq_iff_eq (b := Requester.paint)]
  rfl

/-- With nothing of the engine presented, a write of it waits when one is outstanding. -/
theorem writeWaits_unpresented {s : State} (h : s.port.paint = []) : WriteWaits s ↔ EngineWriteOut s := by
  rw [WriteWaits, h]
  simp [EngineWriteOut]

/-- Settles O46. -/
theorem heldOrderErrorResult : Obligations.HeldOrderErrorResult := by
  intro c k tag b h s hh ha unfinal
  have held : (freed tag s).paint.held = some h := hh
  have running (hc : (c, k) ∈ runningResponses) :
      ∃ g, exec (c tag .error) s = .next (answerHeld b none g (freed tag s)) := running_answered hc ha rfl
  refine ⟨fun both => ?_, fun hc hp ho => ?_, fun f t hc hp ho hd ht => ?_, fun f hc hp hd => ?_, fun hc hp => ?_⟩
  · have run : exec (c tag .error) s = .next (tryFinish (faultedState b.addr h (freed tag s))) := by
      rw [← faultHeld_eq held]
      rcases both with ⟨hc, hp, ho⟩ | ⟨hc, hp⟩
      · obtain ⟨g, run⟩ := running hc
        exact run.trans (congrArg _ (answerHeld_faults held hp ho))
      · obtain ⟨rfl, rfl⟩ := Prod.mk.inj hc
        obtain ⟨off, hk⟩ := (burstKinds.remainder b.kind).mp (awaits_kind ha)
        exact (respond_error answerRemainder ha).trans (congrArg _ (answerRemainder_failed hk held hp))
    have withdrawn : (faultedState b.addr h (freed tag s)).port.paint = [] :=
      List.filter_eq_nil_iff.mpr fun d hd => by simpa using unfinal d hd
    have out : WriteWaits (faultedState b.addr h (freed tag s)) ↔ EngineWriteOut (freed tag s) :=
      writeWaits_unpresented withdrawn
    obtain ⟨waits, issued⟩ := tryFinish_decided (s := faultedState b.addr h (freed tag s)) rfl (.inr rfl) rfl
    rw [out] at waits issued
    refine ⟨_, run, ?_⟩
    by_cases w : EngineWriteOut (freed tag s)
    · rw [waits w]
      exact ⟨⟨rfl, rfl, rfl, rfl⟩, rfl, rfl, rfl, rfl, rfl, rfl, fun no => absurd w no, fun _ => ⟨rfl, withdrawn⟩⟩
    · rw [issued w]
      exact ⟨⟨rfl, rfl, rfl, rfl⟩, rfl, rfl, rfl, rfl, rfl, rfl,
        fun _ => ⟨rfl, congrArg (· ++ [burstAt .final (h.addr.toNat + 4) 4 [5, 0x05, 0, 0]]) withdrawn⟩,
        fun yes => absurd yes w⟩
  · obtain ⟨g, run⟩ := running hc
    refine ⟨_, run.trans (congrArg _ (answerHeld_aborted held hp ho)), ?_, ?_⟩
    · rw [tryFinish_paint]
      rfl
    · rw [(tryFinish_paintOnly _).fault]
      rfl
  · obtain ⟨g, run⟩ := running hc
    have reported : reportPaint .busFault b.addr (freed tag s) = t := by
      rw [ht]
      rfl
    rw [run, answerHeld_aborted held hp ho, reported]
    obtain ⟨waits, issued⟩ := tryFinish_decided (s := t) (by rw [ht]; exact hh) (.inl hp) hd
    have same : WriteWaits t ↔ WriteWaits (freed tag s) := by
      rw [writeWaits_iff, writeWaits_iff, ht]
      rfl
    rw [same] at waits issued
    exact ⟨fun w => congrArg _ (waits w), fun w => congrArg _ (issued w)⟩
  · obtain ⟨g, run⟩ := running hc
    obtain ⟨waits, issued⟩ := tryFinish_decided held (.inr hp) hd
    rw [run, answerHeld_faulted held hp]
    exact ⟨fun w => congrArg _ (waits w), fun w => congrArg _ (issued w)⟩
  · obtain ⟨g, run⟩ := running hc
    have quiet := tryFinish_paintOnly (freed tag s)
    exact ⟨_, run.trans (congrArg _ (answerHeld_faulted held hp)), quiet.fault, quiet.regs⟩

end Sys2Proof.Machine
end


section
/-! A scene's load: the descriptors, the choice of the candidate, and the body (R2 to R15, R184). -/

namespace Sys2Proof.Machine

/-! ### The reads of a load that an ERROR ends (R9, R14) -/

theorem stopReads_stopped (k : BurstKind → Bool) (s : State) : ReadsStopped k s.port (stopReads k s).port where
  rest := rfl
  empty h := by simp [stopReads, Port.dropReads, h]
  loader c cs h := by
    simp only [stopReads, Port.dropReads, modPort_port, h]
    rfl

/-- R9, R14: no write is stopped with the reads of a load. -/
theorem stopReads_writes {k : BurstKind → Bool} (hk : ∀ j, k j = true → j.isWrite = false) (s : State) :
    ((stopReads k s).port.loader.filter fun c => c.kind.isWrite) = s.port.loader.filter fun c => c.kind.isWrite := by
  cases h : s.port.loader with
  | nil => rw [(stopReads_stopped k s).empty h]
  | cons c cs =>
    have behind : ((cs.filter fun d => !k d.kind).filter fun d => d.kind.isWrite) = cs.filter fun d => d.kind.isWrite := by
      rw [List.filter_filter]
      refine List.filter_congr fun d _ => ?_
      cases hd : k d.kind with
      | false => simp
      | true => simp [hk d.kind hd]
    rw [(stopReads_stopped k s).loader c cs h]
    cases hc : k c.kind with
    | false => simp [List.filter_cons, behind]
    | true => simp [behind, hk c.kind hc]

/-! ### A descriptor read answered -/

theorem answerDescriptor_failed {b : Burst} {n : Slot} {s : State} (hk : b.kind = .descriptor n) :
    answerDescriptor b none s =
      endLoad (reportScene .busFault none none 0 b.addr (stopReads BurstKind.isDescriptor s)) := by
  simp only [answerDescriptor, hk]

/-- R10: the loader's records with one more descriptor read. -/
def withDescriptor (n : Slot) (data : List Byte) (l : Loader) : Loader :=
  { l with descs := l.descs.set n.val (some (parseDescriptor data)), descLeft := l.descLeft - 1 }

theorem answerDescriptor_waits {b : Burst} {n : Slot} {data : List Byte} {s : State} (hk : b.kind = .descriptor n)
    (hd : 2 ≤ s.loader.descLeft) :
    answerDescriptor b (some data) s = { s with loader := withDescriptor n data s.loader } := by
  have more : (s.modLoader (withDescriptor n data)).loader.descLeft ≠ 0 := by
    change s.loader.descLeft - 1 ≠ 0
    omega
  simp only [answerDescriptor, hk]
  exact if_neg more

theorem answerDescriptor_last {b : Burst} {n : Slot} {data : List Byte} {s : State} (hk : b.kind = .descriptor n)
    (hd : s.loader.descLeft = 1) :
    answerDescriptor b (some data) s = chooseCandidate { s with loader := withDescriptor n data s.loader } := by
  have last : (s.modLoader (withDescriptor n data)).loader.descLeft = 0 := by
    change s.loader.descLeft - 1 = 0
    omega
  simp only [answerDescriptor, hk]
  exact if_pos last

theorem descriptor_read (k : BurstKind) (h : k.isDescriptor = true) : k.isWrite = false := by
  obtain ⟨n, rfl⟩ := (burstKinds.descriptor k).mp h
  rfl

/-- Settles O34. -/
theorem descriptorReadResult : Obligations.DescriptorReadResult := by
  refine ⟨fun _ => rfl, fun tag data b n s ha hk hl => ?_⟩
  have failed := (respond_error answerDescriptor ha).trans (congrArg _ (answerDescriptor_failed hk))
  refine ⟨⟨_, failed, rfl, rfl, rfl, rfl, rfl, rfl, rfl, rfl, ?_, ?_⟩, fun hd => ?_⟩
  · exact stopReads_writes descriptor_read (freed tag s)
  · exact stopReads_stopped BurstKind.isDescriptor (freed tag s)
  · exact (respond_ok answerDescriptor ha hl).trans (congrArg _ (answerDescriptor_waits hk hd))

/-! ### The choice of the candidate -/

theorem mem_offers_iff {l : Loader} {p : Slot × Descriptor} :
    p ∈ offers l ↔ l.descs[p.1.val] = some p.2 ∧ p.2.state = 1 := by
  refine ⟨mem_offers, fun h => ?_⟩
  obtain ⟨read, offered⟩ := h
  have every : ∀ n : Slot, n ∈ allSlots := by decide
  exact List.mem_filterMap.mpr ⟨p.1, every p.1, by rw [read]; exact if_pos offered⟩

theorem mem_unmarked_iff {l : Loader} {p : Slot × Descriptor} :
    p ∈ unmarked l ↔ l.descs[p.1.val] = some p.2 ∧ p.2.state = 1 ∧ offerCode l p.2 = none := by
  simp only [unmarked, List.mem_filter, mem_offers_iff, offerMark_code, Option.isNone_iff_eq_none, and_assoc]

theorem unmarked_sorted (l : Loader) : (unmarked l).Pairwise fun p q => p.1 < q.1 :=
  (offers_sorted l).filter _

theorem bestOffer_none_iff {ps : List (Slot × Descriptor)} : bestOffer ps = none ↔ ps = [] := by
  cases ps <;> simp [bestOffer]

theorem newer_iff (a b : Word) : newer a b = true ↔ NewerSeq a b := by
  simp only [newer, Bool.and_eq_true, decide_eq_true_eq]

/-- R11: a later offer replaces the best only when it is newer. -/
theorem bestOffer_append {ps : List (Slot × Descriptor)} {c : Slot × Descriptor} (p : Slot × Descriptor)
    (h : bestOffer ps = some c) : bestOffer (ps ++ [p]) = some (if newer p.2.seq c.2.seq then p else c) := by
  cases ps with
  | nil => exact absurd h nofun
  | cons q qs =>
    obtain rfl := Option.some.inj h
    rw [List.cons_append, bestOffer, List.foldl_append]
    rfl

theorem bestOffer_newest {l : Loader} {c : Slot × Descriptor} (h : bestOffer (unmarked l) = some c) (base : Word)
    (hb : ∀ p ∈ unmarked l, (p.2.seq - base).toNat < 2 ^ 31) :
    ∀ p ∈ unmarked l, (p.2.seq - base).toNat ≤ (c.2.seq - base).toNat ∧
      ((p.2.seq - base).toNat = (c.2.seq - base).toNat → c.1 ≤ p.1) := by
  have sorted := unmarked_sorted l
  revert h hb sorted
  cases unmarked l with
  | nil => exact fun h => absurd h nofun
  | cons q qs => exact fun h hb sorted => newest_spec base qs q c hb sorted (Option.some.inj h).symm

theorem mem_skipSet_iff {l : Loader} {c : Slot × Descriptor} {n : Slot} :
    n ∈ skipSet l c ↔ n ≠ c.1 ∧ ∃ d, (n, d) ∈ unmarked l ∧ ¬NewerSeq d.seq c.2.seq := by
  simp only [skipSet, List.mem_map, List.mem_filter, Bool.and_eq_true, bne_iff_ne, Bool.not_eq_true', ← Bool.not_eq_true,
    newer_iff, Prod.exists, exists_and_right, exists_eq_right]
  constructor
  · rintro ⟨d, offered, other, old⟩
    exact ⟨other, d, offered, old⟩
  · rintro ⟨other, d, offered, old⟩
    exact ⟨d, offered, other, old⟩

theorem skipSet_sorted (l : Loader) (c : Slot × Descriptor) : (skipSet l c).Pairwise (· < ·) := by
  rw [skipSet, List.pairwise_map]
  exact (unmarked_sorted l).filter _

/-- Settles O36. -/
theorem candidateIsTheNewestOffer : Obligations.CandidateIsTheNewestOffer := by
  refine ⟨fun l => ⟨fun p => mem_unmarked_iff, unmarked_sorted l, bestOffer_none_iff.mpr, fun h => ?_⟩, fun _ => rfl,
    fun ps p c h => ⟨fun k => ?_, fun k => ?_, fun k => ?_⟩, fun l c h => ?_⟩
  · exact Option.ne_none_iff_exists'.mp (bestOffer_none_iff.not.mpr h)
  · rw [bestOffer_append p h, if_pos ((newer_iff _ _).mpr k)]
  · rw [bestOffer_append p h, if_neg ((newer_iff _ _).not.mpr k)]
  · have apart : ¬NewerSeq p.2.seq c.2.seq := fun ⟨_, below⟩ => by omega
    rw [bestOffer_append p h, if_neg ((newer_iff _ _).not.mpr apart)]
  · obtain ⟨read, legal, newest⟩ := bestOffer_newer h
    have offered := (mem_unmarked_iff.mp (bestOffer_mem h)).2.1
    exact ⟨read, offered, legal, newest, bestOffer_newest h, fun n => mem_skipSet_iff, skipSet_sorted l c⟩

/-! ### The end of the descriptor phase -/

theorem mask_sceneRejected : Event.sceneRejected.mask = 0x002 := by decide

/-- R15: a load that rejects its slot. -/
theorem rejectLoad_eq (n : Slot) (d : Descriptor) (code : Code) (window : Option Nat) (addr : Word) (s : State) :
    rejectLoad n d code window addr s = loadRejected n d code window addr s := by
  rw [rejectLoad, writeRejected, slotWordBurst_eq, loadRejected, ← mask_sceneRejected]
  rfl

/-- R10: the state after the REJECTED writes that end the descriptor phase. -/
def offersMarked (s : State) : State :=
  { s with
    port := { s.port with loader := s.port.loader ++ markWrites s.regs.dirBase s.loader }
    regs :=
      { s.regs with
        events := if markWrites s.regs.dirBase s.loader = [] then s.regs.events else s.regs.events ||| 0x002 } }

theorem offers_marked (s : State) : (offers s.loader).foldl (markOffer s.loader) s = offersMarked s :=
  markOffers_eq s.loader _ s _ (offers_markWrites s.regs.dirBase s.loader).symm

theorem chooseCandidate_none {s : State} (h : bestOffer (unmarked s.loader) = none) :
    chooseCandidate s = endLoad (offersMarked s) := by
  simp only [chooseCandidate, offers_marked, h]

theorem chooseCandidate_refused {s : State} {c : Slot × Descriptor} {code : Code}
    (h : bestOffer (unmarked s.loader) = some c) (hc : bodyRefused c.2 = some code) :
    chooseCandidate s = loadRejected c.1 c.2 code none c.2.bodyAddr (offersMarked s) := by
  rw [← rejectLoad_eq]
  simp only [chooseCandidate, offers_marked, h, hc]

theorem chooseCandidate_reads {s : State} {c : Slot × Descriptor} (h : bestOffer (unmarked s.loader) = some c)
    (hc : bodyRefused c.2 = none) :
    chooseCandidate s = beginBody c.1 c.2 (skipSet s.loader c) (offersMarked s) := by
  simp only [chooseCandidate, offers_marked, h, hc]

theorem events_marked_again (marks : List Burst) (e : BitVec 12) :
    (if marks = [] then e else e ||| 0x002) ||| 0x002 = e ||| 0x002 := by
  split
  · rfl
  · rw [BitVec.or_assoc]
    rfl

/-- Settles O35. -/
theorem descriptorPhaseEnd : Obligations.DescriptorPhaseEnd := by
  intro tag data b n l s ha hk hd hn hl
  have read : withDescriptor n (named b data) (freed tag s).loader = l := by
    rw [hl]
    simp [withDescriptor, freed, hn]
  have run : exec (.descriptorReadResponse tag (.ok data)) s = .next (chooseCandidate { freed tag s with loader := l }) := by
    rw [← read]
    exact (respond_ok answerDescriptor ha hd).trans (congrArg _ (answerDescriptor_last hk hn))
  refine ⟨rfl, fun p => mem_unmarked_iff, _, run, ?_⟩
  cases best : bestOffer (unmarked l) with
  | none =>
    rw [chooseCandidate_none (s := { freed tag s with loader := l }) best]
    refine ⟨rfl, rfl, rfl, rfl, rfl, rfl, fun marked hm => ⟨fun _ => ⟨rfl, rfl, ?_, rfl⟩, fun c k => absurd k nofun⟩⟩
    rw [hm]
    rfl
  | some c =>
    have offered : unmarked l ≠ [] := fun k => absurd (best.symm.trans (bestOffer_none_iff.mpr k)) nofun
    cases refused : bodyRefused c.2 with
    | some code =>
      rw [chooseCandidate_refused (s := { freed tag s with loader := l }) best refused]
      refine ⟨rfl, rfl, rfl, rfl, rfl, rfl, fun marked hm => ⟨fun k => absurd k offered, fun c' k => ?_⟩⟩
      obtain rfl := Option.some.inj k
      refine ⟨fun code' hc => ?_, fun none => absurd ((bodyRefused_iff _ _).mp refused) (none code)⟩
      obtain rfl := Option.some.inj (refused.symm.trans ((bodyRefused_iff _ _).mpr hc))
      refine ⟨rfl, ?_, rfl, rfl⟩
      rw [← events_marked_again (markWrites s.regs.dirBase l)]
      rfl
    | none =>
      rw [chooseCandidate_reads (s := { freed tag s with loader := l }) best refused]
      refine ⟨rfl, rfl, rfl, rfl, rfl, rfl, fun marked hm => ⟨fun k => absurd k offered, fun c' k => ?_⟩⟩
      obtain rfl := Option.some.inj k
      refine ⟨fun code' hc => absurd (refused.symm.trans ((bodyRefused_iff _ _).mpr hc)) nofun, fun _ => ⟨rfl, rfl, ?_, rfl⟩⟩
      rw [hm]
      rfl

/-! ### The body -/

theorem length_putBytes (l d : List Byte) (o : Nat) : (putBytes l o d).length = l.length := by
  simp only [putBytes, List.length_take, List.length_append, List.length_drop]
  omega

theorem getElem?_putBytes {l d : List Byte} {o i : Nat} (h : i < l.length) :
    (putBytes l o d)[i]? = if o ≤ i ∧ i < o + d.length then d[i - o]? else l[i]? := by
  rw [putBytes, List.getElem?_take_of_lt h]
  by_cases before : i < o
  · rw [List.append_assoc, List.getElem?_append_left (by simp; omega), List.getElem?_take_of_lt before,
      if_neg (by omega)]
  · have start : (l.take o).length = o := by simp; omega
    by_cases inside : i < o + d.length
    · rw [List.append_assoc, List.getElem?_append_right (by omega), List.getElem?_append_left (by omega), start,
        if_pos (by omega)]
    · rw [List.getElem?_append_right (by simp; omega), List.getElem?_drop, List.length_append, start,
        if_neg (by omega)]
      congr 1
      omega

theorem candidateOf_eq {l : Loader} {n : Slot} {d : Descriptor} (hn : l.candidate = some n)
    (hd : l.descs[n.val] = some d) : candidateOf l = some (n, d) := by
  simp only [candidateOf, hn, hd]
  rfl

theorem answerBody_ok {b : Burst} {off : Nat} {data : List Byte} {s : State} (hk : b.kind = .body off) :
    answerBody b (some data) s =
      { s with
        loader :=
          { s.loader with
            image := putBytes s.loader.image off data, bodyLeft := s.loader.bodyLeft - 1,
            phase := if s.loader.bodyLeft ≤ 1 then .checking else s.loader.phase } } := by
  simp only [answerBody, hk, ← Nat.sub_eq_zero_iff_le]
  rfl

theorem answerBody_failed {b : Burst} {off : Nat} {n : Slot} {d : Descriptor} {s : State} (hk : b.kind = .body off)
    (hn : s.loader.candidate = some n) (hd : s.loader.descs[n.val] = some d) :
    answerBody b none s = loadRejected n d .busFault none b.addr (stopReads BurstKind.isBody s) := by
  rw [← rejectLoad_eq]
  simp only [answerBody, hk, candidateOf_eq hn hd]

/-- Settles O37. -/
theorem bodyBurstResult : Obligations.BodyBurstResult := by
  refine ⟨fun l d o => ⟨length_putBytes l d o, fun i => getElem?_putBytes⟩, fun tag off data b s ha hk hl =>
    ⟨(respond_ok answerBody ha hl).trans (congrArg _ (answerBody_ok hk)), fun n d hn hd => ?_⟩⟩
  exact ⟨_, (respond_error answerBody ha).trans (congrArg _ (answerBody_failed hk hn hd)), rfl,
    stopReads_stopped BurstKind.isBody (freed tag s)⟩

end Sys2Proof.Machine
end


section
/-! A scene's checks, its table entries, and its staging (R16, R29, R35 to R48, R185). -/

namespace Sys2Proof.Machine

/-! ### Records and table entries -/

theorem recordRule (body : List Byte) (o : Nat) : RecordRule body o where
  kind := rfl
  format := rfl
  ratio := rfl
  dst := rfl
  base := rfl
  pitch := rfl
  size := ⟨rfl, rfl⟩
  source := ⟨rfl, rfl⟩
  key := rfl
  ring r hr := by
    subst hr
    rfl
  motion m hm := by
    subst hm
    rfl

theorem windowOf_surface {w : RawWindow} {f : Format} (h : Format.ofByte w.format = some f) :
    (windowOf w).content = .surface (surfaceOf w f) := by
  simp only [windowOf, h]

theorem windowOf_fill {w : RawWindow} (h : Format.ofByte w.format = none) : (windowOf w).content = .fill w.colour := by
  simp only [windowOf, h]

theorem ofByte_iff (b : Byte) (g : Format) :
    Format.ofByte b = some g ↔ b = 1 ∧ g = .rgb565 ∨ b = 2 ∧ g = .xrgb8888 := by
  unfold Format.ofByte
  split
  next h => subst h; cases g <;> simp
  next h =>
    split
    next k => subst k; cases g <;> simp
    next k => exact ⟨nofun, fun e => e.elim (fun e => absurd e.1 h) fun e => absurd e.1 k⟩

theorem entryRule (body : List Byte) (o : Nat) : EntryRule body o where
  ratio := rfl
  dst := rfl
  fill h := windowOf_fill (show Format.ofByte (u8 body (o + 1)) = none by rw [h]; rfl)
  surface f key ring motion r m hf hr hm hkey hring hmotion := by
    have format : Format.ofByte (parseRecord body o).format = some f := (ofByte_iff _ f).mpr hf
    obtain ⟨-, -, -, dst, base, pitch, -, source, k, rg, mo⟩ := recordRule body o
    rw [windowOf_surface format, surfaceOf, base, pitch, source.1, source.2, k, rg r hr, mo m (hr ▸ hm), dst, ← hkey,
      ← hring, ← hmotion]
    cases ring <;> rfl

theorem viewRule : ViewRule where
  none := rfl
  fill w ws c h := by simp only [viewEntries, List.filterMap_cons, h]
  surface w ws sf h := by simp only [viewEntries, List.filterMap_cons, h]

/-! ### The window checks -/

section
variable {w : RawWindow} (hk : w.kind = 1 ∨ w.kind = 2)

theorem isSurface_iff (w : RawWindow) : w.isSurface = true ↔ w.kind = 2 := beq_iff_eq

include hk in
theorem windowFormatBad_iff : w.formatBad = true ↔ WindowFails w .formatBad := by
  rcases hk with k | k <;> simp [RawWindow.formatBad, RawWindow.isSurface, WindowFails, k]

include hk in
theorem fieldConflict_iff : w.fieldConflict = true ↔ WindowFails w .fieldConflict := by
  rcases hk with k | k <;>
    simp [RawWindow.fieldConflict, RawWindow.isSurface, WindowFails, k, Option.isSome_iff_ne_none, or_assoc]

theorem windowAlignBad_iff : w.alignBad = true ↔ WindowFails w .alignBad := by
  simp only [RawWindow.alignBad, WindowFails, Bool.and_eq_true, Bool.or_eq_true, isSurface_iff, decide_eq_true_eq,
    bne_iff_ne, or_assoc]
  rfl

theorem windowGeometryBad_iff : w.geometryBad = true ↔ WindowFails w .geometryBad := by
  have top (n : Nat) : 2 ^ 32 ≤ n ↔ 0xFFFFFFFF < n := by omega
  simp only [RawWindow.geometryBad, WindowFails, Bool.and_eq_true, Bool.or_eq_true, isSurface_iff, decide_eq_true_eq,
    beq_iff_eq, Option.isNone_iff_eq_none, or_assoc, top]
  rfl

theorem ringBad_iff : w.ringBad = true ↔ WindowFails w .ringBad := by
  simp only [RawWindow.ringBad, WindowFails, Bool.and_eq_true, isSurface_iff, Option.any_eq_true, Bool.or_eq_true,
    Bool.not_eq_true', decide_eq_true_eq, beq_iff_eq, ← Bool.not_eq_true, not_and_or, Nat.not_le, Nat.not_lt, or_assoc]

theorem motionBad_iff : w.motionBad = true ↔ WindowFails w .motionBad := by
  simp only [RawWindow.motionBad, WindowFails, Bool.and_eq_true, isSurface_iff, Option.any_eq_true, Bool.or_eq_true,
    stepBad, decide_eq_true_eq, Option.isNone_iff_eq_none, or_assoc]

include hk in
/-- R35: the checks of a window of a legal kind are taken in their order. -/
theorem window_findsFirst : FindsFirst windowChecks (WindowFails w) w.firstFailing :=
  .test (windowFormatBad_iff hk) (.test (fieldConflict_iff hk) (.test windowAlignBad_iff
    (.test windowGeometryBad_iff (.test ringBad_iff (.test motionBad_iff (findsFirst_nil _))))))

end

/-! ### The record walk (R29, R38) -/

theorem u8_eq_iff (body : List Byte) (o k : Nat) (hk : k < 256) : (u8 body o).toNat = k ↔ u8 body o = BitVec.ofNat 8 k := by
  rw [← BitVec.toNat_inj, BitVec.toNat_ofNat, Nat.mod_eq_of_lt hk]

theorem recordLength_fill {body : List Byte} {o : Nat} (h : u8 body o = 1) : recordLength body o = 16 :=
  if_pos ((u8_eq_iff body o 1 (by decide)).mpr h)

theorem recordLength_surface {body : List Byte} {o : Nat} (h : u8 body o ≠ 1) :
    recordLength body o =
      28 + (if (u8 body (o + 3)).getLsbD 0 then 4 else 0) + (if (u8 body (o + 3)).getLsbD 1 then 8 else 0) +
        (if (u8 body (o + 3)).getLsbD 2 then 4 else 0) :=
  if_neg ((u8_eq_iff body o 1 (by decide)).not.mpr h)

theorem recordLength_ge (body : List Byte) (o : Nat) : 16 ≤ recordLength body o := by
  by_cases h : u8 body o = 1
  · rw [recordLength_fill h]
  · rw [recordLength_surface h]
    omega

section
variable {body : List Byte} {n i o : Nat}

theorem kind_legal (hk : u8 body o = 1 ∨ u8 body o = 2) :
    (parseRecord body o).kind = 1 ∨ (parseRecord body o).kind = 2 := by
  rw [(recordRule body o).kind]
  exact hk.imp (u8_eq_iff body o 1 (by decide)).mpr (u8_eq_iff body o 2 (by decide)).mpr

theorem walkRecords_record (hk : u8 body o = 1 ∨ u8 body o = 2) (hl : o + recordLength body o ≤ body.length) :
    walkRecords body (n + 1) i o =
      match (parseRecord body o).firstFailing with
      | some code => .error (code, some i)
      | none =>
        (walkRecords body n (i + 1) (o + recordLength body o)).map fun p => (windowOf (parseRecord body o) :: p.1, p.2) := by
  have word : ¬body.length < o + 4 := by
    have := recordLength_ge body o
    omega
  have legal : ¬((u8 body o).toNat ≠ 1 ∧ (u8 body o).toNat ≠ 2) := by
    have := kind_legal hk
    rw [(recordRule body o).kind] at this
    omega
  rw [walkRecords, if_neg word, if_neg legal, if_neg (Nat.not_lt.mpr hl)]
  cases (parseRecord body o).firstFailing with
  | some code => rfl
  | none => cases walkRecords body n (i + 1) (o + recordLength body o) <;> rfl

end

theorem walkRule (body : List Byte) : WalkRule body where
  done _ _ := rfl
  noWord n i o h := by rw [walkRecords, if_pos h]
  noKind n i o h h1 h2 := by
    rw [walkRecords, if_neg (Nat.not_lt.mpr h),
      if_pos ⟨(u8_eq_iff body o 1 (by decide)).not.mpr h1, (u8_eq_iff body o 2 (by decide)).not.mpr h2⟩]
  noRecord n i o h hk hl := by
    have legal : ¬((u8 body o).toNat ≠ 1 ∧ (u8 body o).toNat ≠ 2) := by
      have := kind_legal hk
      rw [(recordRule body o).kind] at this
      omega
    rw [walkRecords, if_neg (Nat.not_lt.mpr h), if_neg legal, if_pos hl]
  failing n i o code hk hl hf := by
    rw [walkRecords_record hk hl, ((window_findsFirst (kind_legal hk)).1 code).mpr hf]
  passed n i o hk hl hf := by
    rw [walkRecords_record hk hl, (window_findsFirst (kind_legal hk)).2.mpr hf]
  fillLength _ := recordLength_fill
  surfaceLength _ := recordLength_surface

/-! ### The six steps (R35) -/

theorem checkValue_eq (d : Descriptor) (body : List Byte) :
    checkValue d.seq d.bodyLen body = crcOf (le32 d.seq ++ le32 d.bodyLen ++ body) := rfl

theorem tooDeep_iff (ws : List Window) : depthExceeded ws = true ↔ ∃ y, TooDeep ws y :=
  depthExceeded_iff ws

theorem tooWide_iff (ws : List Window) : budgetExceeded ws = true ↔ ∃ y, TooWide ws y := by
  rw [budgetExceeded_iff]
  refine exists_congr fun y => ?_
  have widths : budgetAt ws y = ((ws.filter fun w => decide (w.dst.y ≤ y) && decide (y < w.dst.y + w.dst.h)).map fun w =>
      match w.content with | .fill _ => 0 | .surface _ => w.dst.w).sum := by
    refine congrArg List.sum (List.map_congr_left fun w _ => ?_)
    cases h : w.content <;> simp only [budgetOf, h]
  exact iff_of_eq (congrArg (fun n => 4096 < n) widths)

theorem minFrames_eq (b : Byte) : max 1 b.toNat = if b = 0 then 1 else b.toNat := by
  have zero : b = 0 ↔ b.toNat = 0 := by
    rw [← BitVec.toNat_inj]
    rfl
  simp only [zero]
  split <;> omega

theorem checkRule (d : Descriptor) (body : List Byte) : CheckRule d body where
  mismatch h := by rw [checkScene, checkValue_eq, if_pos h]
  count h h1 := by rw [checkScene, checkValue_eq, if_neg (not_not.mpr h), if_pos h1]
  windows e h h1 h2 := by
    rw [checkScene, checkValue_eq, if_neg (not_not.mpr h), if_neg (Nat.not_lt.mpr h1), h2]
  last ws stop h h1 h2 := by
    rw [checkScene, checkValue_eq, if_neg (not_not.mpr h), if_neg (Nat.not_lt.mpr h1), h2]
    refine ⟨fun k => if_pos k, fun k deep => ?_, fun k deep wide => ?_, fun k deep wide => ?_⟩
    · exact (if_neg (not_not.mpr k)).trans (if_pos ((tooDeep_iff ws).mpr deep))
    · exact (if_neg (not_not.mpr k)).trans ((if_neg ((tooDeep_iff ws).not.mpr (not_exists.mpr deep))).trans
        (if_pos ((tooWide_iff ws).mpr wide)))
    · rw [← minFrames_eq]
      exact (if_neg (not_not.mpr k)).trans ((if_neg ((tooDeep_iff ws).not.mpr (not_exists.mpr deep))).trans
        (if_neg ((tooWide_iff ws).not.mpr (not_exists.mpr wide))))

/-! ### The end of the checks (R15, R16, R68) -/

theorem betweenPhases_iff (s : State) : betweenPhases s = true ↔ BetweenPhases s := by
  unfold betweenPhases BetweenPhases
  cases s.scan.timing <;> cases s.scan.line <;> simp [and_assoc]

section
variable {n : Slot} {d : Descriptor} {s : State} (hp : s.loader.phase = .checking) (hn : s.loader.candidate = some n)
  (hd : s.loader.descs[n.val] = some d) (hb : ¬BetweenPhases s)
include hp hn hd hb

theorem completeChecks_rejects {code : Code} {window : Option Nat}
    (h : checkScene d s.loader.image = .error (code, window)) :
    completeChecks s = loadRejected n d code window d.bodyAddr s := by
  rw [completeChecks, if_pos ⟨hp, Bool.eq_false_of_not_eq_true ((betweenPhases_iff s).not.mpr hb)⟩,
    candidateOf_eq hn hd, ← rejectLoad_eq]
  simp only [h]

theorem completeChecks_stages {im : SceneImage} (h : checkScene d s.loader.image = .ok im) :
    completeChecks s = stage n d im s := by
  rw [completeChecks, if_pos ⟨hp, Bool.eq_false_of_not_eq_true ((betweenPhases_iff s).not.mpr hb)⟩, candidateOf_eq hn hd]
  simp only [h]

end

/-- R16: the scene staged, before the held order is tested again. -/
def stagedState (n : Slot) (d : Descriptor) (im : SceneImage) (s : State) : State :=
  recomputeView
    (endLoad
      (s.modLoader fun l =>
        { l with stagedTable := im.windows,
                 staged := some { slot := n, seq := d.seq, minFrames := im.minFrames, bg := im.bg, skip := l.skip } }))

theorem stage_eq (n : Slot) (d : Descriptor) (im : SceneImage) (s : State) :
    stage n d im s = retestHold (stagedState n d im s) := rfl

/-- Settles O38. -/
theorem sceneChecksResult : Obligations.SceneChecksResult := by
  refine ⟨fun d body => ⟨checkRule d body, walkRule body, fun o => ⟨recordRule body o, entryRule body o⟩⟩, viewRule,
    fun n d s hr hp hn hd => ?_⟩
  have run : exec .sceneChecksComplete s = .next (completeChecks s) := live_running hr
  rw [run]
  refine ⟨fun hb => congrArg _ (if_neg fun k => ?_), fun hb => ⟨fun code window h => ?_, fun im h => ?_⟩⟩
  · exact absurd ((betweenPhases_iff s).mpr hb) (by simp [k.2])
  · exact congrArg _ (completeChecks_rejects hp hn hd hb h)
  · rw [completeChecks_stages hp hn hd hb h, stage_eq]
    obtain ⟨p, bs, whole⟩ := retestHold_issues (stagedState n d im s)
    have loader : (retestHold (stagedState n d im s)).loader = (stagedState n d im s).loader := by rw [whole]
    have held : (retestHold (stagedState n d im s)).resetHeld = false := by rw [whole]; exact hr
    refine ⟨_, rfl, loader, ?_, ?_, fun h he hh => ?_, fun he => ?_⟩
    · rw [whole]
      rfl
    · rw [readReg_state held, (stateWord_reads _).2.2.2.1, loader]
      rfl
    · exact (retestHold_tested (s := stagedState n d im s) he hh).congr rfl rfl rfl rfl rfl
    · rw [retestHold_other (s := stagedState n d im s) he]
      exact ⟨rfl, rfl⟩

end Sys2Proof.Machine
end


section
/-! A pixel from its source to the panel lines (R65, R71, R77 to R90). -/

namespace Sys2Proof.Machine

/-! ### Expansion and blend -/

theorem u16_lt (l : List Byte) (o : Nat) : u16 l o < 65536 := by
  have low := (u8 l o).isLt
  have high := (u8 l (o + 1)).isLt
  unfold u16
  omega

theorem toNat_ofNat8 {n : Nat} (h : n < 256) : (BitVec.ofNat 8 n).toNat = n :=
  (BitVec.toNat_ofNat n 8).trans (Nat.mod_eq_of_lt h)

/-- R79: the channels of an RGB565 value whose fields are `r`, `g` and `b`. -/
theorem expand565_channels {r g b : Nat} (hr : r < 32) (hg : g < 64) (hb : b < 32) :
    (expand565 (r * 2048 + g * 32 + b)).r.toNat = r * 8 + r / 4 ∧
      (expand565 (r * 2048 + g * 32 + b)).g.toNat = g * 4 + g / 16 ∧
      (expand565 (r * 2048 + g * 32 + b)).b.toNat = b * 8 + b / 4 := by
  have red : (r * 2048 + g * 32 + b) / 2048 % 32 = r := by omega
  have green : (r * 2048 + g * 32 + b) / 32 % 64 = g := by omega
  have blue : (r * 2048 + g * 32 + b) % 32 = b := by omega
  simp only [expand565, red, green, blue]
  exact ⟨toNat_ofNat8 (by omega), toNat_ofNat8 (by omega), toNat_ofNat8 (by omega)⟩

theorem blendChannel_toNat {ratio : Nat} (p v : Byte) (h : ratio ≤ 16) :
    (blendChannel ratio p v).toNat = (ratio * p.toNat + (16 - ratio) * v.toNat + 8) / 16 := by
  have upper : ratio * p.toNat ≤ ratio * 255 := Nat.mul_le_mul_left _ (Nat.le_of_lt_succ p.isLt)
  have lower : (16 - ratio) * v.toNat ≤ (16 - ratio) * 255 := Nat.mul_le_mul_left _ (Nat.le_of_lt_succ v.isLt)
  exact toNat_ofNat8 (by omega)

theorem blendChannel_full (p v : Byte) : blendChannel 16 p v = p := by
  apply BitVec.eq_of_toNat_eq
  rw [blendChannel_toNat p v le_rfl]
  omega

theorem blendChannel_none (p v : Byte) : blendChannel 0 p v = v := by
  apply BitVec.eq_of_toNat_eq
  rw [blendChannel_toNat p v (Nat.zero_le _)]
  omega

/-! ### Resolution -/

section
variable {s : State} {x place : Nat} {v : Rgb} {l : Listed} {w : Window}

theorem resolveWindow_outside (h : l.mark = true ∨ x < l.first ∨ l.first + l.count ≤ x) :
    resolveWindow s x v (l, place) = v := by
  unfold resolveWindow
  exact if_pos (by simpa [or_assoc] using h)

variable (hw : s.loader.shownTable[l.pos]? = some w) (hm : l.mark = false) (h1 : l.first ≤ x) (h2 : x < l.first + l.count)
include hw hm h1 h2

theorem resolveWindow_fill {c : Rgb} (hc : w.content = .fill c) :
    resolveWindow s x v (l, place) = blend w.ratio c v := by
  simp [resolveWindow, hm, Nat.not_lt.mpr h1, Nat.not_le.mpr h2, hw, hc]

theorem resolveWindow_surface {sf : Surface} {sp : Span} {c : Rgb} (hc : w.content = .surface sf)
    (hs : s.fetch.reading[place]? = some sp) (hp : c = rgbOfRaw sf.format sp.data ((x - l.first) * sf.format.bytes)) :
    resolveWindow s x v (l, place) = if sf.key = some c then v else blend w.ratio c v := by
  subst hp
  simp [resolveWindow, hm, Nat.not_lt.mpr h1, Nat.not_le.mpr h2, hw, hc, spanPixel, hs]

end

theorem pixelAt_idle {s : State} {x : Nat} {t : Timing} (hs : s.loader.shownSlot = none) (ht : s.scan.timing = some t) :
    pixelAt s x = t.idle := by
  simp [pixelAt, hs, ht]

theorem pixelAt_shown {s : State} (x : Nat) (hs : s.loader.shownSlot ≠ none) :
    pixelAt s x = s.comp.current.zipIdx.foldl (resolveWindow s x) s.loader.shownBg := by
  obtain ⟨n, hn⟩ := Option.ne_none_iff_exists'.mp hs
  simp [pixelAt, hn]

theorem pixelAt_append {s : State} {x : Nat} {ls : List Listed} {l : Listed} (hs : s.loader.shownSlot ≠ none)
    (hc : s.comp.current = ls ++ [l]) :
    pixelAt s x = resolveWindow s x (pixelAt { s with comp := { s.comp with current := ls } } x) (l, ls.length) := by
  rw [pixelAt_shown x hs, pixelAt_shown (s := { s with comp := { s.comp with current := ls } }) x hs, hc,
    List.zipIdx_append, List.foldl_append]
  simp only [List.zipIdx_singleton, List.foldl_cons, List.foldl_nil, Nat.zero_add]
  rfl

/-! ### The data lines (R89) -/

theorem toNat_append_low {m n : Nat} (x : BitVec m) (y : BitVec n) : (x ++ y).toNat = x.toNat * 2 ^ n + y.toNat := by
  rw [BitVec.toNat_append, ← Nat.shiftLeft_add_eq_or_of_lt y.isLt, Nat.shiftLeft_eq]

/-- The high bits of a channel, as R89 keeps them. -/
theorem toNat_high_bits (x : Byte) {k n : Nat} (h : k + n = 8) : (x.extractLsb' k n).toNat = x.toNat / 2 ^ k := by
  have below : x.toNat / 2 ^ k < 2 ^ n := by
    rw [Nat.div_lt_iff_lt_mul (Nat.two_pow_pos k), ← Nat.pow_add, Nat.add_comm n k, h]
    exact x.isLt
  rw [BitVec.extractLsb'_toNat, Nat.shiftRight_eq_div_pow, Nat.mod_eq_of_lt below]

theorem formatPixel_18 (c : Rgb) :
    formatPixel 18 c = (0 : BitVec 6) ++ c.r.extractLsb' 2 6 ++ c.g.extractLsb' 2 6 ++ c.b.extractLsb' 2 6 := by
  have r := c.r.isLt
  have g := c.g.isLt
  have b := c.b.isLt
  apply BitVec.eq_of_toNat_eq
  change (BitVec.ofNat 24 (c.r.toNat / 4 * 4096 + c.g.toNat / 4 * 64 + c.b.toNat / 4)).toNat = _
  have zero : (0 : BitVec 6).toNat = 0 := rfl
  rw [BitVec.toNat_ofNat]
  simp only [toNat_append_low, toNat_high_bits (k := 2) (n := 6) _ rfl, zero]
  omega

theorem formatPixel_16 (c : Rgb) :
    formatPixel 16 c = (0 : BitVec 8) ++ c.r.extractLsb' 3 5 ++ c.g.extractLsb' 2 6 ++ c.b.extractLsb' 3 5 := by
  have r := c.r.isLt
  have g := c.g.isLt
  have b := c.b.isLt
  apply BitVec.eq_of_toNat_eq
  change (BitVec.ofNat 24 (c.r.toNat / 8 * 2048 + c.g.toNat / 4 * 32 + c.b.toNat / 8)).toNat = _
  have zero : (0 : BitVec 8).toNat = 0 := rfl
  rw [BitVec.toNat_ofNat]
  simp only [toNat_append_low, toNat_high_bits (k := 2) (n := 6) _ rfl, toNat_high_bits (k := 3) (n := 5) _ rfl, zero]
  omega

/-! ### The panel lines (R65, R71) -/

theorem sends_iff (o : OutputState) : o.sends = true ↔ o = .running ∨ o = .parking := by
  simp [OutputState.sends]

theorem panelPins_sending {s : State} {t : Timing} {lp : LinePos} (ho : s.scan.output.sends = true)
    (ht : s.scan.timing = some t) (hl : s.scan.line = some lp) : panelPins s = linePins t lp s := by
  simp only [panelPins, ht, hl]
  exact if_pos ((sends_iff _).mp ho)

theorem panelPins_idle {s : State} (ho : s.scan.output.sends = false) : panelPins s = idlePins s := by
  have still : ¬(s.scan.output = .running ∨ s.scan.output = .parking) := by
    rw [← sends_iff, ho]
    exact Bool.false_ne_true
  unfold panelPins
  split
  · exact if_neg still
  · rfl

theorem linePins_active (t : Timing) (lp : LinePos) (s : State) :
    ((linePins t lp s).de = true ↔ lp.line < t.h ∧ t.b ≤ lp.period ∧ lp.period < t.b + t.w) ∧
      (linePins t lp s).data =
        if lp.line < t.h ∧ t.b ≤ lp.period ∧ lp.period < t.b + t.w then
          formatPixel t.outWidth (pixelAt s (lp.period - t.b))
        else 0 := by
  simp only [linePins, Bool.and_eq_true, decide_eq_true_eq, and_assoc, true_and]

/-- Settles O54. -/
theorem pixelResolution : Obligations.PixelResolution := by
  refine ⟨fun dst sf o k => ⟨sourceRow_reads dst sf o k, sourceCol_reads dst sf o k⟩, fun l o r g b hg hb e => ?_,
    fun _ _ => rfl, fun _ p v h => blendChannel_toNat p v h, fun p v => ⟨blendChannel_full p v, blendChannel_none p v⟩,
    fun _ _ _ => ⟨rfl, rfl, rfl⟩, fun s x place v l w hw => ⟨resolveWindow_outside, fun hm h1 h2 =>
      ⟨fun c hc => resolveWindow_fill hw hm h1 h2 hc, fun sf sp c hc hs hp => ?_⟩⟩,
    fun s x => ⟨fun t hs ht => pixelAt_idle hs ht, fun hs hc => ?_, fun ls l hs hc => pixelAt_append hs hc⟩,
    fun c => ⟨rfl, formatPixel_18 c, formatPixel_16 c⟩, fun s => ⟨fun t lp ho ht hl => ?_, fun ho => ?_⟩⟩
  · have bound := u16_lt l o
    change (expand565 (u16 l o)).r.toNat = _ ∧ (expand565 (u16 l o)).g.toNat = _ ∧ (expand565 (u16 l o)).b.toNat = _
    rw [e]
    exact expand565_channels (by omega) hg hb
  · rw [resolveWindow_surface hw hm h1 h2 hc hs hp]
    exact ⟨fun k => if_pos k, fun k => if_neg k⟩
  · rw [pixelAt_shown x hs, hc]
    rfl
  · rw [panelPins_sending ho ht hl]
    exact ⟨rfl, rfl, rfl, linePins_active t lp s⟩
  · rw [panelPins_idle ho]
    refine ⟨by simp [idlePins], fun t ht => by simp [idlePins, ht], fun ht => by simp [idlePins, ht], rfl, rfl⟩

end Sys2Proof.Machine
end


section
/-! The placement of a COPY, the rows of a COPY and a FILL, and where their reads and writes stand (R31, R134 to R138). -/

namespace Sys2Proof.Machine

/-! ### Runs of bytes, one byte after another (R161) -/

/-- R161: a run's bytes are those of its parts, in order; `F` is told each byte's offset. -/
theorem cutRun_bytes {α : Type} (F : Nat → α) {fuel a n a0 : Nat} (ha : a0 ≤ a) (h : EnoughFuel fuel a n) :
    ((cutRun fuel a n).flatMap fun p => (List.range p.2).map fun k => F (p.1 - a0 + k)) =
      (List.range n).map fun i => F (a - a0 + i) := by
  induction fuel generalizing a n with
  | zero =>
    by_cases hn : n = 0
    · rw [hn]
      rfl
    · exact absurd h (not_enoughFuel hn)
  | succ fuel ih =>
    by_cases hn : n = 0
    · rw [hn, cutRun_zero]
      rfl
    · have both : n = min n (64 - a % 64) + (n - min n (64 - a % 64)) := by omega
      rw [cutRun_succ fuel a hn, List.flatMap_cons, ih (ha.trans (Nat.le_add_right _ _)) h.step]
      conv_rhs => rw [both, List.range_add, List.map_append, List.map_map]
      refine congrArg _ (List.map_congr_left fun i _ => ?_)
      exact congrArg F (by dsimp only; omega)

theorem cutRun_inside {fuel a n : Nat} {p : Nat × Nat} (h : p ∈ cutRun fuel a n) :
    a ≤ p.1 ∧ 1 ≤ p.2 ∧ p.1 + p.2 ≤ a + n := by
  obtain ⟨i, hi⟩ := List.getElem?_of_mem h
  obtain ⟨starts, filled, -, inside, -⟩ := cutRun_part hi
  omega

/-- R161: every byte of a run lies in a part of it. -/
theorem cutRun_covers {a n i : Nat} (h : i < n) : ∃ p ∈ cutRun (n / 64 + 2) a n, ∃ k < p.2, p.1 - a + k = i := by
  have all := cutRun_bytes id (le_refl a) (enoughFuel_run a n)
  have mem : i ∈ (List.range n).map fun i => id (a - a + i) := List.mem_map.mpr ⟨i, List.mem_range.mpr h, by simp⟩
  rw [← all] at mem
  obtain ⟨p, hp, hk⟩ := List.mem_flatMap.mp mem
  obtain ⟨k, hk, e⟩ := List.mem_map.mp hk
  exact ⟨p, hp, k, List.mem_range.mp hk, e⟩

theorem mem_runBursts {kind : Nat → BurstKind} {a n : Nat} {data : List Byte} {b : Burst} :
    b ∈ runBursts kind a n data ↔
      ∃ p ∈ cutRun (n / 64 + 2) a n, burstAt (kind (p.1 - a)) p.1 p.2 ((data.drop (p.1 - a)).take p.2) = b := by
  rw [runBursts, List.mem_map]

theorem burstAt_addr (k : BurstKind) {a : Nat} (n : Nat) (data : List Byte) (h : a < 2 ^ 32) :
    (burstAt k a n data).addr.toNat = a := by
  rw [burstAt_below k n data h]
  exact (BitVec.toNat_ofNat _ _).trans (Nat.mod_eq_of_lt h)

section
variable {kind : Nat → BurstKind} {a n : Nat} (ht : a + n ≤ 2 ^ 32)
include ht

theorem part_addr {p : Nat × Nat} (k : BurstKind) (data : List Byte) (h : p ∈ cutRun (n / 64 + 2) a n) :
    (burstAt k p.1 p.2 data).addr.toNat = p.1 := by
  obtain ⟨-, filled, inside⟩ := cutRun_inside h
  exact burstAt_addr k p.2 data (by omega)

/-- Every byte that the bursts of a run read is one of the run. -/
theorem runBursts_reads {data : List Byte} {b : Burst} (h : b ∈ runBursts kind a n data) {k : Nat} (hk : k < b.len) :
    ∃ i < n, b.addr.toNat + k = a + i := by
  obtain ⟨p, hp, rfl⟩ := mem_runBursts.mp h
  obtain ⟨starts, -, inside⟩ := cutRun_inside hp
  have short : k < p.2 := hk
  rw [part_addr ht _ _ hp]
  exact ⟨p.1 + k - a, by omega, by omega⟩

/-- Every byte of a run is read by one of its bursts. -/
theorem runBursts_covers {data : List Byte} {i : Nat} (h : i < n) :
    ∃ b ∈ runBursts kind a n data, ∃ o k, b.kind = kind o ∧ k < b.len ∧ o + k = i ∧ b.addr.toNat + k = a + i := by
  obtain ⟨p, hp, k, hk, e⟩ := cutRun_covers (a := a) h
  obtain ⟨starts, -, -⟩ := cutRun_inside hp
  refine ⟨_, mem_runBursts.mpr ⟨p, hp, rfl⟩, p.1 - a, k, rfl, hk, e, ?_⟩
  rw [part_addr ht _ _ hp]
  omega

/-- R137: the writes of a run put its bytes one after another from its first address on. -/
theorem runBursts_writes (data : List Byte) :
    ((runBursts kind a n data).flatMap fun b => (List.range b.len).map fun k => (b.addr.toNat + k, b.data[k]?)) =
      (List.range n).map fun i => (a + i, data[i]?) := by
  have all := cutRun_bytes (fun i => (a + i, data[i]?)) (le_refl a) (enoughFuel_run a n)
  rw [Nat.sub_self] at all
  simp only [Nat.zero_add] at all
  rw [← all, runBursts, List.flatMap_map]
  refine List.flatMap_congr fun p hp => List.map_congr_left fun k hk => ?_
  obtain ⟨starts, -, -⟩ := cutRun_inside hp
  have short : k < p.2 := List.mem_range.mp hk
  have byte : ((data.drop (p.1 - a)).take p.2)[k]? = data[p.1 - a + k]? := by
    rw [List.getElem?_take_of_lt short, List.getElem?_drop]
  rw [part_addr ht _ _ hp]
  refine Prod.ext ?_ byte
  change p.1 + k = a + (p.1 - a + k)
  omega

end

/-! ### Pixels inside a surface (R133) -/

/-- R133: a row of a legal rectangle ends at or below the top of the address space. -/
theorem rect_row_below {r : Rect} {d : OrderSurface} {row : Nat} (hs : ¬SurfaceBad d) (hr : ¬RectBad r d)
    (h : row < r.h) : pixelAddress d r.x (r.y + row) + r.w * (if d.format = 1 then 2 else 4) ≤ 2 ^ 32 := by
  simp only [SurfaceBad, RectBad, not_or, Nat.not_lt] at hs hr
  obtain ⟨-, -, -, -, -, top⟩ := hs
  obtain ⟨-, -, -, -, -, -, wide, high⟩ := hr
  have rows : (r.y + row) * d.pitch ≤ (d.h - 1) * d.pitch := Nat.mul_le_mul_right _ (by omega)
  have columns : (r.x + r.w) * (if d.format = 1 then 2 else 4) ≤ d.w * (if d.format = 1 then 2 else 4) :=
    Nat.mul_le_mul_right _ wide
  rw [Nat.add_mul] at columns
  unfold pixelAddress
  omega

/-! ### Where a pixel of a COPY goes (R134) -/

/-- The four rotations. -/
theorem rotation_cases {c : CopyFields} (h : c.rotation.toNat ≤ 3) :
    c.rotation = 0 ∨ c.rotation = 1 ∨ c.rotation = 2 ∨ c.rotation = 3 := by
  simp only [← BitVec.toNat_inj]
  change c.rotation.toNat = 0 ∨ c.rotation.toNat = 1 ∨ c.rotation.toNat = 2 ∨ c.rotation.toNat = 3
  omega

/-- The column that the mirror of a COPY exchanges with column `i`. -/
def mirrored (c : CopyFields) (i : Nat) : Nat :=
  if c.mirror then c.w - 1 - i else i

theorem mirrored_lt {c : CopyFields} {i : Nat} (h : i < c.w) : mirrored c i < c.w := by
  unfold mirrored
  split <;> omega

theorem mirrored_mirrored {c : CopyFields} {i : Nat} (h : i < c.w) : mirrored c (mirrored c i) = i := by
  unfold mirrored
  split <;> omega

theorem place_eq (c : CopyFields) (i j : Nat) :
    (c.rotation = 0 → c.place i j = (mirrored c i, j)) ∧
      (c.rotation = 1 → c.place i j = (c.h - 1 - j, mirrored c i)) ∧
      (c.rotation = 2 → c.place i j = (c.w - 1 - mirrored c i, c.h - 1 - j)) ∧
      (c.rotation = 3 → c.place i j = (j, c.w - 1 - mirrored c i)) := by
  refine ⟨fun h => ?_, fun h => ?_, fun h => ?_, fun h => ?_⟩ <;> simp [CopyFields.place, mirrored, h]

theorem sourceOf_eq (c : CopyFields) (col row : Nat) :
    (c.rotation = 0 → c.sourceOf col row = (mirrored c col, row)) ∧
      (c.rotation = 1 → c.sourceOf col row = (mirrored c row, c.h - 1 - col)) ∧
      (c.rotation = 2 → c.sourceOf col row = (mirrored c (c.w - 1 - col), c.h - 1 - row)) ∧
      (c.rotation = 3 → c.sourceOf col row = (mirrored c (c.w - 1 - row), col)) := by
  refine ⟨fun h => ?_, fun h => ?_, fun h => ?_, fun h => ?_⟩ <;> simp [CopyFields.sourceOf, mirrored, h]

theorem dst_straight {c : CopyFields} (h : c.rotation = 0 ∨ c.rotation = 2) :
    c.turned = false ∧ c.dstW = c.w ∧ c.dstH = c.h := by
  rcases h with h | h <;> simp [CopyFields.turned, CopyFields.dstW, CopyFields.dstH, h]

theorem dst_turned {c : CopyFields} (h : c.rotation = 1 ∨ c.rotation = 3) :
    c.turned = true ∧ c.dstW = c.h ∧ c.dstH = c.w := by
  rcases h with h | h <;> simp [CopyFields.turned, CopyFields.dstW, CopyFields.dstH, h]

/-- R134: a source pixel is placed in the destination rectangle, and no other source pixel there. -/
theorem place_inside {c : CopyFields} (hr : c.rotation.toNat ≤ 3) {i j : Nat} (hi : i < c.w) (hj : j < c.h) :
    (c.place i j).1 < c.dstW ∧ (c.place i j).2 < c.dstH ∧ c.sourceOf (c.place i j).1 (c.place i j).2 = (i, j) := by
  have m := mirrored_lt hi
  have mm := mirrored_mirrored hi
  have flip : c.w - 1 - (c.w - 1 - mirrored c i) = mirrored c i := by omega
  obtain ⟨p0, p1, p2, p3⟩ := place_eq c i j
  rcases rotation_cases hr with h | h | h | h
  · obtain ⟨-, w, h'⟩ := dst_straight (.inl h)
    rw [p0 h, w, h', (sourceOf_eq c _ _).1 h, mm]
    exact ⟨m, hj, rfl⟩
  · obtain ⟨-, w, h'⟩ := dst_turned (.inl h)
    rw [p1 h, w, h', (sourceOf_eq c _ _).2.1 h, mm]
    exact ⟨by omega, m, Prod.ext rfl (by dsimp only; omega)⟩
  · obtain ⟨-, w, h'⟩ := dst_straight (.inr h)
    rw [p2 h, w, h', (sourceOf_eq c _ _).2.2.1 h, flip, mm]
    exact ⟨by dsimp only; omega, by dsimp only; omega, Prod.ext rfl (by dsimp only; omega)⟩
  · obtain ⟨-, w, h'⟩ := dst_turned (.inr h)
    rw [p3 h, w, h', (sourceOf_eq c _ _).2.2.2 h, flip, mm]
    exact ⟨hj, by dsimp only; omega, rfl⟩

/-- R134: every pixel of the destination rectangle receives a source pixel. -/
theorem sourceOf_inside {c : CopyFields} (hr : c.rotation.toNat ≤ 3) {col row : Nat} (hc : col < c.dstW)
    (hw : row < c.dstH) :
    (c.sourceOf col row).1 < c.w ∧ (c.sourceOf col row).2 < c.h ∧
      c.place (c.sourceOf col row).1 (c.sourceOf col row).2 = (col, row) := by
  obtain ⟨s0, s1, s2, s3⟩ := sourceOf_eq c col row
  rcases rotation_cases hr with h | h | h | h
  · obtain ⟨-, w, h'⟩ := dst_straight (.inl h)
    rw [w] at hc
    rw [h'] at hw
    rw [s0 h, (place_eq c _ _).1 h, mirrored_mirrored hc]
    exact ⟨mirrored_lt hc, hw, rfl⟩
  · obtain ⟨-, w, h'⟩ := dst_turned (.inl h)
    rw [w] at hc
    rw [h'] at hw
    rw [s1 h, (place_eq c _ _).2.1 h, mirrored_mirrored hw]
    exact ⟨mirrored_lt hw, by dsimp only; omega, Prod.ext (by dsimp only; omega) rfl⟩
  · obtain ⟨-, w, h'⟩ := dst_straight (.inr h)
    rw [w] at hc
    rw [h'] at hw
    have back : c.w - 1 - col < c.w := by omega
    rw [s2 h, (place_eq c _ _).2.2.1 h, mirrored_mirrored back]
    exact ⟨mirrored_lt back, by dsimp only; omega, Prod.ext (by dsimp only; omega) (by dsimp only; omega)⟩
  · obtain ⟨-, w, h'⟩ := dst_turned (.inr h)
    rw [w] at hc
    rw [h'] at hw
    have back : c.w - 1 - row < c.w := by omega
    rw [s3 h, (place_eq c _ _).2.2.2 h, mirrored_mirrored back]
    exact ⟨mirrored_lt back, hc, Prod.ext rfl (by dsimp only; omega)⟩

/-- R137: along a destination row of a COPY the source row stands, or for a turned COPY the source column. -/
theorem sourceOf_row {c : CopyFields} (hr : c.rotation.toNat ≤ 3) (col row : Nat) :
    (c.turned = true → (c.sourceOf col row).1 = (c.sourceOf 0 row).1) ∧
      (c.turned = false → (c.sourceOf col row).2 = (c.sourceOf 0 row).2) := by
  obtain ⟨s0, s1, s2, s3⟩ := sourceOf_eq c col row
  obtain ⟨z0, z1, z2, z3⟩ := sourceOf_eq c 0 row
  rcases rotation_cases hr with h | h | h | h
  · rw [(dst_straight (.inl h)).1, s0 h, z0 h]
    exact ⟨nofun, fun _ => rfl⟩
  · rw [(dst_turned (.inl h)).1, s1 h, z1 h]
    exact ⟨fun _ => rfl, nofun⟩
  · rw [(dst_straight (.inr h)).1, s2 h, z2 h]
    exact ⟨nofun, fun _ => rfl⟩
  · rw [(dst_turned (.inr h)).1, s3 h, z3 h]
    exact ⟨fun _ => rfl, nofun⟩

/-! ### The reads of a row of a COPY (R137) -/

theorem formatBytes_eq {b : Byte} {f : Format} (h : Format.ofByte b = some f) : formatBytes b = f.bytes := by
  rcases (ofByte_iff b f).mp h with ⟨rfl, rfl⟩ | ⟨rfl, rfl⟩ <;> rfl

section
variable {c : CopyFields} {f : Format} {row : Nat} (hf : Format.ofByte c.src.format = some f)
include hf

theorem sourceAddr_eq (i j : Nat) : c.src.pixelAddr (c.sx + i) (c.sy + j) = sourceAddr c f (i, j) := by
  rw [OrderSurface.pixelAddr, formatBytes_eq hf]
  rfl

/-- R137: the runs that a row of a turned COPY reads: one pixel of each source row. -/
theorem rowRuns_turned (ht : c.turned = true) :
    c.rowRuns row =
      (List.range c.h).map fun j => (sourceAddr c f ((c.sourceOf 0 row).1, j), f.bytes, j * f.bytes) := by
  simp only [CopyFields.rowRuns, ht, if_true, sourceAddr_eq hf, formatBytes_eq hf]

/-- R137: the run that a row of any other COPY reads: a source row. -/
theorem rowRuns_straight (ht : c.turned = false) :
    c.rowRuns row = [(sourceAddr c f (0, (c.sourceOf 0 row).2), c.w * f.bytes, 0)] := by
  simp only [CopyFields.rowRuns, ht, ← sourceAddr_eq hf, formatBytes_eq hf]
  rfl

end

/-- R137: `run` is a run of source pixels that destination row `row` of a COPY reads: every byte of it is one of a pixel
that the row needs, below the top of the address space. -/
structure RunOf (c : CopyFields) (f : Format) (row : Nat) (run : Nat × Nat × Nat) : Prop where
  below : run.1 + run.2.1 ≤ 2 ^ 32
  pixels : ∀ i < run.2.1, ∃ col < c.dstW, ∃ e < f.bytes, run.1 + i = sourceAddr c f (c.sourceOf col row) + e

/-- R133: the bytes of the source pixels of a legal COPY lie below the top of the address space. -/
theorem source_below {c : CopyFields} {f : Format} (hc : ∀ code ∈ orderChecks, ¬OrderFails (.copy c) code)
    (hf : Format.ofByte c.src.format = some f) {j : Nat} (hj : j < c.h) :
    sourceAddr c f (0, j) + c.w * f.bytes ≤ 2 ^ 32 := by
  have geometry := hc .geometryBad (by decide)
  simp only [OrderFails, not_or] at geometry
  obtain ⟨surface, -, rect, -⟩ := geometry
  have row := rect_row_below surface rect hj
  have bytes : (if c.src.format = 1 then 2 else 4) = f.bytes := formatBytes_eq hf
  rw [bytes] at row
  refine le_trans (le_of_eq ?_) row
  rw [pixelAddress, bytes]
  rfl

theorem rotation_legal {c : CopyFields} (hc : ∀ code ∈ orderChecks, ¬OrderFails (.copy c) code) :
    c.rotation.toNat ≤ 3 := by
  have format := hc .formatBad (by decide)
  simp only [OrderFails, not_or, Nat.not_lt] at format
  exact format.2.2

/-- The address of a source pixel in its row. -/
theorem sourceAddr_column (c : CopyFields) (f : Format) (i j : Nat) :
    sourceAddr c f (i, j) = sourceAddr c f (0, j) + i * f.bytes := by
  simp only [sourceAddr, Nat.add_zero, Nat.add_mul]
  omega

/-- R137: each pixel of the source column that a row of a turned COPY reads goes to one column of the row. -/
theorem turned_column {c : CopyFields} {row j : Nat} (hr : c.rotation.toNat ≤ 3) (ht : c.turned = true) (hj : j < c.h) :
    ∃ col < c.dstW, c.sourceOf col row = ((c.sourceOf 0 row).1, j) := by
  have width : c.dstW = c.h := if_pos ht
  rw [width]
  rcases rotation_cases hr with h | h | h | h
  · exact absurd ht (by rw [(dst_straight (.inl h)).1]; exact Bool.false_ne_true)
  · refine ⟨c.h - 1 - j, by omega, ?_⟩
    rw [(sourceOf_eq c _ _).2.1 h, (sourceOf_eq c _ _).2.1 h]
    exact Prod.ext rfl (by dsimp only; omega)
  · exact absurd ht (by rw [(dst_straight (.inr h)).1]; exact Bool.false_ne_true)
  · refine ⟨j, hj, ?_⟩
    rw [(sourceOf_eq c _ _).2.2.2 h, (sourceOf_eq c _ _).2.2.2 h]

/-- R137: each pixel of the source row that a row of any other COPY reads goes to one column of the row. -/
theorem straight_column {c : CopyFields} {row i : Nat} (hr : c.rotation.toNat ≤ 3) (ht : c.turned = false)
    (hi : i < c.w) : ∃ col < c.dstW, c.sourceOf col row = (i, (c.sourceOf 0 row).2) := by
  have width : c.dstW = c.w := if_neg (by simp [ht])
  rw [width]
  rcases rotation_cases hr with h | h | h | h
  · refine ⟨mirrored c i, mirrored_lt hi, ?_⟩
    rw [(sourceOf_eq c _ _).1 h, (sourceOf_eq c _ _).1 h, mirrored_mirrored hi]
  · exact absurd ht (by rw [(dst_turned (.inl h)).1]; exact Bool.noConfusion)
  · have m := mirrored_lt hi
    refine ⟨c.w - 1 - mirrored c i, by omega, ?_⟩
    have back : c.w - 1 - (c.w - 1 - mirrored c i) = mirrored c i := by omega
    rw [(sourceOf_eq c _ _).2.2.1 h, (sourceOf_eq c _ _).2.2.1 h, back, mirrored_mirrored hi]
  · exact absurd ht (by rw [(dst_turned (.inr h)).1]; exact Bool.noConfusion)

theorem dstW_pos {c : CopyFields} (hc : ∀ code ∈ orderChecks, ¬OrderFails (.copy c) code) : 0 < c.dstW := by
  have geometry := hc .geometryBad (by decide)
  simp only [OrderFails, RectBad, not_or, Nat.not_lt] at geometry
  obtain ⟨-, -, -, wide, -⟩ := geometry
  rw [dstW_eq]
  omega

theorem row_source {c : CopyFields} {row : Nat} (hc : ∀ code ∈ orderChecks, ¬OrderFails (.copy c) code)
    (hrow : row < c.dstH) : (c.sourceOf 0 row).1 < c.w ∧ (c.sourceOf 0 row).2 < c.h := by
  obtain ⟨column, line, -⟩ := sourceOf_inside (rotation_legal hc) (dstW_pos hc) hrow
  exact ⟨column, line⟩

section
variable {c : CopyFields} {f : Format} {row : Nat} (hc : ∀ code ∈ orderChecks, ¬OrderFails (.copy c) code)
  (hf : Format.ofByte c.src.format = some f) (hrow : row < c.dstH)
include hc hf hrow

/-- R137: every run of a row reads pixels that the row needs, below the top of the address space. -/
theorem rowRuns_runOf {run : Nat × Nat × Nat} (h : run ∈ c.rowRuns row) : RunOf c f row run := by
  have hr := rotation_legal hc
  obtain ⟨column, line⟩ := row_source hc hrow
  cases ht : c.turned with
  | true =>
    rw [rowRuns_turned hf ht] at h
    obtain ⟨j, hj, rfl⟩ := List.mem_map.mp h
    have below := List.mem_range.mp hj
    refine ⟨?_, fun e he => ?_⟩
    · have whole := source_below hc hf below
      have part : ((c.sourceOf 0 row).1 + 1) * f.bytes ≤ c.w * f.bytes := Nat.mul_le_mul_right _ column
      rw [Nat.add_mul] at part
      dsimp only
      rw [sourceAddr_column]
      omega
    · obtain ⟨col, hcol, source⟩ := turned_column hr ht below
      exact ⟨col, hcol, e, he, by rw [source]⟩
  | false =>
    rw [rowRuns_straight hf ht] at h
    obtain rfl := List.mem_singleton.mp h
    refine ⟨source_below hc hf line, fun i hi => ?_⟩
    have bytes := Format.bytes_pos f
    have pixel : i / f.bytes < c.w := Nat.div_lt_of_lt_mul (by rwa [Nat.mul_comm] at hi)
    obtain ⟨col, hcol, source⟩ := straight_column (row := row) hr ht pixel
    refine ⟨col, hcol, i % f.bytes, Nat.mod_lt _ bytes, ?_⟩
    rw [source, sourceAddr_column c f (i / f.bytes), Nat.add_assoc, Nat.div_add_mod']

/-- R137: the reads of a row read only pixels that the row needs. -/
theorem rowReads_needed {b : Burst} (h : b ∈ c.rowReads row) {k : Nat} (hk : k < b.len) :
    ∃ col < c.dstW, ∃ e < f.bytes, b.addr.toNat + k = sourceAddr c f (c.sourceOf col row) + e := by
  obtain ⟨run, hrun, hb⟩ := List.mem_flatMap.mp h
  obtain ⟨below, pixels⟩ := rowRuns_runOf hc hf hrow hrun
  obtain ⟨i, hi, e⟩ := runBursts_reads below hb hk
  rw [e]
  exact pixels i hi

end

theorem sum_map_const {α : Type} (l : List α) (n : Nat) : (l.map fun _ => n).sum = l.length * n := by
  rw [List.map_const', List.sum_replicate, smul_eq_mul]

theorem rowReads_lens (c : CopyFields) (row : Nat) :
    ((c.rowReads row).map Burst.len).sum = ((c.rowRuns row).map fun run => run.2.1).sum := by
  unfold CopyFields.rowReads
  generalize c.rowRuns row = runs
  induction runs with
  | nil => rfl
  | cons run runs ih =>
    rw [List.flatMap_cons, List.map_append, List.sum_append, runBursts_sum, ih, List.map_cons, List.sum_cons]

/-- R137: the reads of a row read as many bytes as its pixels have. -/
theorem rowReads_sum {c : CopyFields} {f : Format} (hf : Format.ofByte c.src.format = some f) (row : Nat) :
    ((c.rowReads row).map Burst.len).sum = c.dstW * f.bytes := by
  rw [rowReads_lens]
  cases ht : c.turned with
  | true =>
    have width : c.dstW = c.h := if_pos ht
    rw [rowRuns_turned hf ht, List.map_map, width]
    exact (sum_map_const (List.range c.h) f.bytes).trans (by rw [List.length_range])
  | false =>
    have width : c.dstW = c.w := if_neg (by simp [ht])
    rw [rowRuns_straight hf ht, width]
    rfl

/-! ### The bytes of a row of a COPY (R134, R135, R137) -/

/-- The reads `bs` have been answered from the memory `m` into the row buffer `src`. -/
def Gathered (m : Nat → Byte) (src : List Byte) (bs : List Burst) : Prop :=
  ∀ b ∈ bs, ∃ off, b.kind = .copySrc off ∧ ∀ k < b.len, src[off + k]? = some (m (b.addr.toNat + k))

theorem Gathered.byte {m : Nat → Byte} {src : List Byte} {a n off i : Nat} (ht : a + n ≤ 2 ^ 32)
    (h : Gathered m src (runBursts (fun o => .copySrc (off + o)) a n [])) (hi : i < n) :
    src[off + i]? = some (m (a + i)) := by
  obtain ⟨b, hb, o, k, kind, hk, place, addr⟩ := runBursts_covers (kind := fun o => .copySrc (off + o)) (data := []) ht hi
  obtain ⟨off', kind', bytes⟩ := h b hb
  obtain rfl : off + o = off' := BurstKind.copySrc.inj (kind.symm.trans kind')
  rw [← place, ← Nat.add_assoc, bytes k hk, addr, place]

section
variable {c : CopyFields} {f : Format} {row : Nat} (hc : ∀ code ∈ orderChecks, ¬OrderFails (.copy c) code)
  (hf : Format.ofByte c.src.format = some f) (hrow : row < c.dstH)
include hc hf hrow

/-- R134, R137: the row buffer holds, at its place, the source pixel that a destination column receives. -/
theorem gathered_pixel {m : Nat → Byte} {src : List Byte} (h : Gathered m src (c.rowReads row)) {col e : Nat}
    (hcol : col < c.dstW) (he : e < f.bytes) :
    src[c.bufferIndex row col * f.bytes + e]? = some (m (sourceAddr c f (c.sourceOf col row) + e)) := by
  have hr := rotation_legal hc
  obtain ⟨column, line, -⟩ := sourceOf_inside hr hcol hrow
  obtain ⟨turned, straight⟩ := sourceOf_row hr col row
  have ofRun {run : Nat × Nat × Nat} (hrun : run ∈ c.rowRuns row) :
      Gathered m src (runBursts (fun o => .copySrc (run.2.2 + o)) run.1 run.2.1 []) :=
    fun b hb => h b (List.mem_flatMap.mpr ⟨run, hrun, hb⟩)
  cases ht : c.turned with
  | true =>
    have hrun : (sourceAddr c f ((c.sourceOf 0 row).1, (c.sourceOf col row).2), f.bytes, (c.sourceOf col row).2 * f.bytes) ∈
        c.rowRuns row := by
      rw [rowRuns_turned hf ht]
      exact List.mem_map.mpr ⟨_, List.mem_range.mpr line, rfl⟩
    have index : c.bufferIndex row col = (c.sourceOf col row).2 := if_pos ht
    rw [index, (ofRun hrun).byte (rowRuns_runOf hc hf hrow hrun).below he, ← turned ht]
  | false =>
    have hrun : (sourceAddr c f (0, (c.sourceOf 0 row).2), c.w * f.bytes, 0) ∈ c.rowRuns row := by
      rw [rowRuns_straight hf ht]
      exact List.mem_singleton.mpr rfl
    have index : c.bufferIndex row col = (c.sourceOf col row).1 := if_neg (by simp [ht])
    have inside : (c.sourceOf col row).1 * f.bytes + e < c.w * f.bytes := by
      have part : ((c.sourceOf col row).1 + 1) * f.bytes ≤ c.w * f.bytes := Nat.mul_le_mul_right _ column
      rw [Nat.add_mul] at part
      omega
    have byte := (ofRun hrun).byte (rowRuns_runOf hc hf hrow hrun).below inside
    rw [Nat.zero_add] at byte
    rw [index, byte, ← straight ht, ← Nat.add_assoc, ← sourceAddr_column]

theorem rowBytes_gathered {g : Format} (hg : Format.ofByte c.dst.format = some g) {m : Nat → Byte} {src : List Byte}
    (h : Gathered m src (c.rowReads row)) :
    c.rowBytes src row =
      (List.range c.dstW).flatMap fun col =>
        convertPixel f g ((List.range f.bytes).map fun e => m (sourceAddr c f (c.sourceOf col row) + e)) := by
  unfold CopyFields.rowBytes
  refine List.flatMap_congr fun col hcol => ?_
  have raw : (src.drop (c.bufferIndex row col * f.bytes)).take f.bytes =
      (List.range f.bytes).map fun e => m (sourceAddr c f (c.sourceOf col row) + e) := by
    refine List.ext_getElem? fun e => ?_
    by_cases he : e < f.bytes
    · rw [List.getElem?_take_of_lt he, List.getElem?_drop,
        gathered_pixel hc hf hrow h (List.mem_range.mp hcol) he]
      simp [he]
    · rw [List.getElem?_eq_none (by simp; omega), List.getElem?_eq_none (by simp; omega)]
  simp only [hf, hg, formatBytes_eq hf, raw]

end

/-! ### Conversion (R135) -/

theorem convert_expands {p : Nat} (h : p < 65536) :
    convertPixel .rgb565 .xrgb8888 (le16 p) =
      [BitVec.ofNat 8 (p % 32 * 8 + p % 32 / 4), BitVec.ofNat 8 (p / 32 % 64 * 4 + p / 32 % 64 / 16),
       BitVec.ofNat 8 (p / 2048 * 8 + p / 2048 / 4), 0] := by
  have red : p / 2048 % 32 = p / 2048 := by omega
  change rawOfRgb .xrgb8888 (expand565 (u16 (le16 p) 0)) = _
  rw [u16_le16 h]
  simp only [expand565, red, rawOfRgb]

/-! ### The order of the rows, and what a FILL writes (R137, R138) -/

theorem fromBelow_iff (c : CopyFields) : (c.overlapping && decide (c.sy < c.dy)) = true ↔ FromBelow c := by
  rw [Bool.and_eq_true, overlapping_iff, decide_eq_true_iff, FromBelow, and_assoc, and_assoc]

theorem rowIndex_eq (c : CopyFields) (n : Nat) :
    (FromBelow c → c.rowIndex n = (copyTarget c).h - 1 - n) ∧ (¬FromBelow c → c.rowIndex n = n) := by
  rw [← fromBelow_iff, ← dstH_eq]
  exact ⟨fun h => if_pos h, fun h => if_neg h⟩

theorem fill_rowBytes {f : FillFields} {g : Format} (h : Format.ofByte f.dst.format = some g) :
    f.rowBytes = (List.replicate f.rect.w (rawOfRgb g f.colour)).flatten := by
  unfold FillFields.rowBytes
  rw [h]

/-- R133: the destination rows of a legal order end at or below the top of the address space. -/
theorem target_below {o : Order} {d : OrderSurface} {r : Rect} {row : Nat}
    (ho : ∀ code ∈ orderChecks, ¬OrderFails o code) (hp : Paints o d r) (h : row < r.h) :
    pixelAddress d r.x (r.y + row) + r.w * (if d.format = 1 then 2 else 4) ≤ 2 ^ 32 := by
  have geometry := ho .geometryBad (by decide)
  rcases hp with ⟨c, rfl, rfl, rfl⟩ | ⟨f, rfl, rfl, rfl⟩
  · simp only [OrderFails, not_or] at geometry
    exact rect_row_below geometry.2.1 geometry.2.2.2 h
  · simp only [OrderFails, not_or] at geometry
    exact rect_row_below geometry.1 geometry.2 h

/-- Settles O55. -/
theorem copyPlacesEveryPixelOnce : Obligations.CopyPlacesEveryPixelOnce := by
  refine ⟨⟨fun _ => rfl, rfl, rfl, ofByte_iff⟩, fun f raw => if_pos rfl, fun p hp => convert_expands hp,
    fun _ _ _ _ => rfl, fun c f g row hc hf hg hrow => ⟨fun b hb k hk => rowReads_needed hc hf hrow hb hk,
      rowReads_sum hf row, fun m src h => rowBytes_gathered hc hf hrow hg h⟩,
    fun c => ⟨dstW_eq c, dstH_eq c, dstH_eq c, rowIndex_eq c⟩, fun f => ⟨rfl, fun h => ?_, fun h => ?_⟩,
    fun o d r row ho hp h => target_below ho hp h, fun d x y bytes h => ⟨rfl, runBursts_writes h bytes⟩,
    fun c hr => ⟨fun i j => ?_, fun i j hi hj => place_inside hr hi hj, fun col row hc hw => sourceOf_inside hr hc hw,
      fun hm i j => ?_⟩⟩
  · exact fill_rowBytes (g := .rgb565) (by rw [h]; rfl)
  · exact fill_rowBytes (g := .xrgb8888) (by rw [h]; rfl)
  · rfl
  · have still : mirrored c i = i := if_neg (by simp [hm])
    have placed := place_eq c i j
    rwa [still] at placed

end Sys2Proof.Machine
end

section
/-! An accepted RUN write outside the paint engine (R175): it comes to its output request, in whichever order the two
fields are taken, with the status block that a PAINT field asks for. -/

namespace Sys2Proof.Machine

/-! ### States that differ in the paint engine -/

/-- The status writer with a block asked for where `asked`. -/
def asking (asked : Bool) (w : Writer) : Writer :=
  if asked then { w with wantBlock := true } else w

theorem asking_asking (a b : Bool) (w : Writer) : asking a (asking b w) = asking (b || a) w := by
  cases a <;> cases b <;> rfl

theorem asking_decide (c : Prop) [Decidable c] (w : Writer) :
    asking (decide c) w = if c then { w with wantBlock := true } else w := by
  simp only [asking, decide_eq_true_eq]

/-- The places `rs` are those of `qs` but for marks on the paint engine's reads. -/
def SamePlaces (qs rs : List Place) : Prop :=
  rs.map Place.unmark = qs.map Place.unmark ∧ ∀ pl, pl.burst.kind.requester ≠ .paint → (pl ∈ rs ↔ pl ∈ qs)

/-- `t` is `s` but for the paint engine, its bursts and reads, the index of the free values and, where `asked`, a status
block asked for. -/
def BesidePaint (asked : Bool) (s t : State) : Prop :=
  ∃ p bs rs i,
    t =
        { s with
          paint := p, writer := asking asked s.writer, freeIdx := i, port := { s.port with reads := rs, paint := bs } } ∧
      SamePlaces s.port.reads rs

theorem SamePlaces.refl (qs : List Place) : SamePlaces qs qs :=
  ⟨rfl, fun _ _ => Iff.rfl⟩

theorem mem_marked {k : BurstKind → Bool} {l : List Place} {pl : Place} :
    (pl ∈ l.map fun q => if k q.burst.kind then { q with burst := q.burst.drop } else q) ↔
      (k pl.burst.kind = true ∧ ∃ q ∈ l, pl = { q with burst := q.burst.drop }) ∨ (k pl.burst.kind = false ∧ pl ∈ l) := by
  rw [List.mem_map]
  constructor
  · rintro ⟨q, hq, rfl⟩
    cases hk : k q.burst.kind
    · exact .inr ⟨hk, hq⟩
    · exact .inl ⟨hk, q, hq, rfl⟩
  · rintro (⟨hk, q, hq, rfl⟩ | ⟨hk, hq⟩)
    · exact ⟨q, hq, if_pos hk⟩
    · exact ⟨pl, hq, by rw [hk]; rfl⟩

/-- Marking the same kinds in both keeps the places the same. -/
theorem SamePlaces.marked {qs rs : List Place} (h : SamePlaces qs rs) (k : BurstKind → Bool) :
    SamePlaces (qs.map fun q => if k q.burst.kind then { q with burst := q.burst.drop } else q)
      (rs.map fun q => if k q.burst.kind then { q with burst := q.burst.drop } else q) := by
  obtain ⟨places, others⟩ := h
  refine ⟨by rw [map_unmark_drop, map_unmark_drop, places], fun pl hp => ?_⟩
  rw [mem_marked, mem_marked, others pl hp]
  refine or_congr_left (and_congr_right fun _ => exists_congr fun q => ?_)
  constructor
  · rintro ⟨hq, rfl⟩
    exact ⟨(others q hp).mp hq, rfl⟩
  · rintro ⟨hq, rfl⟩
    exact ⟨(others q hp).mpr hq, rfl⟩

/-- Marking the paint engine's reads leaves the places the same. -/
theorem SamePlaces.of_marked (qs : List Place) :
    SamePlaces qs (qs.map fun q => if q.burst.kind.requester == .paint then { q with burst := q.burst.drop } else q) := by
  refine ⟨map_unmark_drop (fun k => k.requester == .paint) qs, fun pl hp => ?_⟩
  have unmarked : (pl.burst.kind.requester == .paint) = false := beq_eq_false_iff_ne.mpr hp
  rw [mem_marked (k := fun k => k.requester == .paint), unmarked]
  simp

/-! ### The requests on states that differ in the paint engine -/

section
variable {a : Bool} {s t : State}

theorem BesidePaint.issues {s' t' : State} (h : BesidePaint a s t) (hs : PaintIssues s s') (ht : PaintIssues t t') :
    BesidePaint a s' t' := by
  obtain ⟨p, bs, rs, i, rfl, same⟩ := h
  obtain ⟨q, cs, rfl⟩ := hs
  obtain ⟨q', cs', rfl⟩ := ht
  exact ⟨q', cs', rs, i, rfl, same⟩

theorem BesidePaint.output_eq (h : BesidePaint a s t) : t.scan.output = s.scan.output := by
  obtain ⟨p, bs, rs, i, rfl, same⟩ := h
  rfl

theorem BesidePaint.setOutput (o : OutputState) (h : BesidePaint a s t) :
    BesidePaint a (setOutput o s) (setOutput o t) := by
  obtain ⟨p, bs, rs, i, rfl, same⟩ := h
  exact ⟨p, bs, rs, i, by cases a <;> rfl, same⟩

theorem BesidePaint.enterParked (h : BesidePaint a s t) : BesidePaint a (enterParked s) (enterParked t) := by
  obtain ⟨p, bs, rs, i, rfl, same⟩ := h
  exact ⟨p, bs, rs, i, by cases a <;> rfl, same⟩

theorem BesidePaint.enterLocking (o : Origin) (h : BesidePaint a s t) :
    BesidePaint a (enterLocking o s) (enterLocking o t) := by
  obtain ⟨p, bs, rs, i, rfl, same⟩ := h
  exact ⟨p, bs, rs, i, by cases a <;> rfl, same⟩

theorem BesidePaint.discardTiming (h : BesidePaint a s t) :
    BesidePaint a (discardTiming (endLocking s)) (discardTiming (endLocking t)) := by
  obtain ⟨p, bs, rs, i, rfl, same⟩ := h
  exact ⟨p, bs, _, i, rfl, same.marked BurstKind.isTiming⟩

end

/-! ### The entry to OFF up to its effects on the paint engine (R63) -/

/-- R26: the scene loader after an entry to OFF. -/
def offLoader (l : Loader) : Loader :=
  { l with
    phase := .idle, candidate := none, descs := Vector.replicate 4 none, descLeft := 0, skip := [], image := [],
    bodyLeft := 0, staged := none, stagedTable := [], shownTable := [], shownSlot := none, framesShown := 0, inView := [] }

/-- R26: the loader's bursts after an entry to OFF, the RETIRED write behind the slot writes that wait. -/
def offWrites (s : State) : List Burst :=
  (s.port.loader.filter fun b => !b.kind.isLoaderRead) ++
    s.loader.shownSlot.toList.map fun n => slotWordBurst s n 3 .none s.loader.shownSeq true

/-- R26, R63, R106: the reads in flight after an entry to OFF. -/
def offReads (qs : List Place) : List Place :=
  (qs.map fun q => if q.burst.kind.isLoaderRead then { q with burst := q.burst.drop } else q).map fun q =>
    if q.burst.kind.isSpan then { q with burst := q.burst.drop } else q

/-- The entry to OFF before a waiting fence ends and a held order is tested again. -/
def offBefore (s : State) : State :=
  askOffBlock s.loader.shownSlot (scanOff (fetchOff (compOff (loaderOff s))))

theorem loaderOff_eq (s : State) :
    loaderOff s =
      { s with
        loader := offLoader s.loader
        writer := asking ((offWrites s).head?.any Burst.asks) s.writer
        port :=
          { s.port with
            loader := firstIssued (offWrites s)
            reads :=
              s.port.reads.map fun q =>
                if q.burst.kind.isLoaderRead then { q with burst := q.burst.drop } else q } } := by
  unfold loaderOff
  dsimp only
  rw [settleLoader_spec]
  rfl

theorem askOffBlock_eq (shown : Option Slot) (s : State) :
    askOffBlock shown s = { s with writer := asking shown.isNone s.writer } := by
  cases shown <;> rfl

/-- R63, log entry 25: a status block is asked for at once with no slot shown, and with the issue of the RETIRED write. -/
theorem offBefore_eq (s : State) :
    offBefore s =
      { s with
        loader := offLoader s.loader
        scan :=
          { s.scan with
            output := .off, origin := none, lockPhase := none, line := none, mark := none, fmk := false, timerOn := false }
        comp := { current := [], coming := [], offsets := [], flags := Vector.replicate 16 false }
        fetch := { active := none, filling := [], reading := [], underruns := s.fetch.underruns }
        writer := asking ((offWrites s).head?.any Burst.asks || s.loader.shownSlot.isNone) s.writer
        port :=
          { s.port with fetch := [], loader := firstIssued (offWrites s), reads := offReads s.port.reads } } := by
  rw [offBefore, askOffBlock_eq, loaderOff_eq, ← asking_asking]
  rfl

theorem offBefore_keepsPaint (s : State) : KeepsPaint s (offBefore s) :=
  enterOff_before s

theorem enterOff_issues (s : State) : PaintIssues (offBefore s) (enterOff s) :=
  (endFenceAtOff_issues _).trans (retestHold_issues _)

theorem BesidePaint.enterOff {a : Bool} {s t : State} (h : BesidePaint a s t) :
    BesidePaint a (enterOff s) (enterOff t) := by
  have before : BesidePaint a (offBefore s) (offBefore t) := by
    obtain ⟨p, bs, rs, i, rfl, same⟩ := h
    rw [offBefore_eq, offBefore_eq]
    refine ⟨p, bs, offReads rs, i, ?_, (same.marked BurstKind.isLoaderRead).marked BurstKind.isSpan⟩
    rw [asking_asking, Bool.or_comm, ← asking_asking]
    rfl
  exact before.issues (enterOff_issues s) (enterOff_issues t)

/-! ### The two requests of a RUN write -/

theorem BesidePaint.requestOutput {a : Bool} {s t : State} (r : OutputTarget) (h : BesidePaint a s t) :
    BesidePaint a (requestOutput r s) (requestOutput r t) := by
  cases r <;> simp only [Machine.requestOutput, requestOff, requestPark, requestRun, h.output_eq] <;>
    cases s.scan.output
  case off.off => exact h
  case off.locking | off.parked | off.running | off.parking => exact h.enterOff
  case park.off => exact h.enterParked
  case park.locking => exact h.discardTiming.enterParked
  case park.parked | park.parking => exact h
  case park.running => exact h.setOutput .parking
  case run.off => exact h.enterLocking .off
  case run.locking | run.running => exact h
  case run.parked => exact h.enterLocking .parked
  case run.parking => exact h.setOutput .running

/-- R111, R112: whether a PAINT field asks for a status block. -/
def paintAsks (p : Bool) (s : State) : Bool :=
  decide (p = true ∧ s.paint.engine = .stopped ∧ s.paint.chainPos ≠ 0)

theorem requestPaint_places (p : Bool) (s : State) : SamePlaces s.port.reads (requestPaint p s).port.reads := by
  cases p with
  | true =>
    have e : (requestPaint true s).port.reads = s.port.reads := paintOn_reads s
    rw [e]
    exact .refl _
  | false =>
    by_cases he : s.paint.engine = .stopped
    · rw [requestPaint_idle (by simp [he])]
      exact .refl _
    · have e : (requestPaint false s).port.reads = _ := paintOff_reads he
      rw [e]
      exact .of_marked _

/-- A PAINT field writes the engine, its bursts and reads, and the status writer. -/
theorem requestPaint_turns (p : Bool) (s : State) :
    ∃ e w bs rs,
      requestPaint p s = { s with paint := e, writer := w, port := { s.port with reads := rs, paint := bs } } := by
  cases p with
  | true =>
    show ∃ e w bs rs, paintOn s = _
    unfold paintOn
    split
    · rw [setChainPos_eq]
      dsimp only
      split <;> exact ⟨_, _, _, _, rfl⟩
    · exact ⟨_, _, _, _, rfl⟩
  | false =>
    show ∃ e w bs rs, paintOff s = _
    unfold paintOff
    split
    · exact ⟨_, _, _, _, rfl⟩
    · dsimp only
      split
      · exact ⟨_, _, _, _, rfl⟩
      · unfold clearHeld
        split
        case h_2 =>
          obtain ⟨e, bs, h⟩ := tryFinish_issues
            (modHeld (fun h => { h with decided := some .aborted, oldWalk := true })
              (withdrawPaint (s.modPaint fun p => { p with engine := .stopped, reenable := false })))
          rw [h]
          exact ⟨_, _, _, _, rfl⟩
        all_goals exact ⟨_, _, _, _, rfl⟩

theorem requestPaint_beside (p : Bool) (s : State) : BesidePaint (paintAsks p s) s (requestPaint p s) := by
  obtain ⟨e, w, bs, rs, h⟩ := requestPaint_turns p s
  have same := requestPaint_places p s
  have writer := (requestPaint_writer p s).trans (asking_decide _ _).symm
  rw [h] at same writer ⊢
  obtain rfl : w = _ := writer
  exact ⟨e, bs, rs, s.freeIdx, rfl, same⟩

theorem BesidePaint.freeIdx {a : Bool} {s t : State} (h : BesidePaint a s t) (i : Nat) :
    BesidePaint a s { t with freeIdx := i } := by
  obtain ⟨p, bs, rs, _, rfl, same⟩ := h
  exact ⟨p, bs, rs, i, rfl, same⟩

theorem startRow_engine (s : State) : (startRow s).paint.engine = s.paint.engine := by
  unfold startRow
  split
  · rfl
  · split <;> rfl

theorem endFenceAtOff_engine (s : State) :
    (endFenceAtOff s).paint.engine = if s.paint.engine = .waiting then .executing else s.paint.engine := by
  unfold endFenceAtOff
  split
  · rw [finish, tryFinish_paint]
    rfl
  · rfl

theorem retestHold_engine (s : State) :
    (retestHold s).paint.engine = s.paint.engine ∨
      s.paint.engine = .held ∧ (retestHold s).paint.engine = .executing := by
  unfold retestHold
  split
  · split
    · exact .inl rfl
    · split
      · exact .inl rfl
      · exact .inr ⟨‹_›, startRow_engine _⟩
  · exact .inl rfl

/-- R127: an output request neither stops the engine nor starts a walk. -/
theorem requestOutput_stopped (r : OutputTarget) (s : State) :
    (requestOutput r s).paint.engine = .stopped ↔ s.paint.engine = .stopped := by
  by_cases hr : r = .off → s.scan.output ≠ .off → s.paint.engine ≠ .waiting ∧ s.paint.engine ≠ .held
  · rw [(requestOutput_keepsPaint hr).engine]
  · obtain ⟨rfl, on, hn⟩ : r = .off ∧ s.scan.output ≠ .off ∧
        ¬(s.paint.engine ≠ .waiting ∧ s.paint.engine ≠ .held) := by simpa only [Classical.not_imp] using hr
    have running : s.paint.engine ≠ .stopped := fun e => hn (by simp [e])
    have e : (endFenceAtOff (offBefore s)).paint.engine ≠ .stopped := by
      rw [endFenceAtOff_engine, (offBefore_keepsPaint s).engine]
      split
      · exact EngineState.noConfusion
      · exact running
    refine iff_of_false ?_ running
    have off : requestOutput .off s = retestHold (endFenceAtOff (offBefore s)) := requestOff_on on
    rw [off]
    rcases retestHold_engine (endFenceAtOff (offBefore s)) with k | ⟨_, k⟩ <;> rw [k]
    · exact e
    · exact EngineState.noConfusion

theorem requestOutput_asks (r : OutputTarget) (p : Bool) (s : State) :
    paintAsks p (requestOutput r s) = paintAsks p s := by
  unfold paintAsks
  rw [decide_eq_decide, requestOutput_stopped]
  refine and_congr_right fun _ => and_congr_right fun stopped => ?_
  rw [(requestOutput_keepsPaint fun _ _ => by simp [stopped]).engine]

/-- R175: an accepted RUN write is its output request, but for the paint engine and the status block that its PAINT field
asks for, in either order of the two. -/
theorem acceptRun_beside (r : OutputTarget) (p : Bool) (m : FaultMode) (s : State) :
    BesidePaint (paintAsks p s) (requestOutput r (setRun r p m s)) (acceptRun r p m s) := by
  obtain ⟨b, e⟩ := acceptRun_cases r p m s
  rw [e]
  refine .freeIdx ?_ _
  unfold presentRun
  cases b
  · exact (requestPaint_beside p (setRun r p m s)).requestOutput r
  · have asks : paintAsks p (requestOutput r (setRun r p m s)) = paintAsks p s := requestOutput_asks r p _
    exact asks ▸ requestPaint_beside p _

end Sys2Proof.Machine
end

section
/-! Output requests: PARK, RUN and OFF in each output state (R54, R55, R58, R59, R61, R63, R64). -/

namespace Sys2Proof.Machine

/-! ### A RUN write by its output request -/

section
variable {r : OutputTarget} {p : Bool} {m : FaultMode} {s : State}

/-- A PAINT field that is no request leaves the engine as the output request does. -/
theorem acceptRun_keepsPaint (hp : p = true ↔ s.paint.engine ≠ .stopped)
    (hr : r = .off → s.scan.output ≠ .off → s.paint.engine ≠ .waiting ∧ s.paint.engine ≠ .held) :
    KeepsPaint s (acceptRun r p m s) := by
  obtain ⟨b, e⟩ := acceptRun_cases r p m s
  have k : KeepsPaint (setRun r p m s) (requestOutput r (setRun r p m s)) := requestOutput_keepsPaint hr
  have before : requestPaint p (setRun r p m s) = setRun r p m s := requestPaint_idle hp
  have after : requestPaint p (requestOutput r (setRun r p m s)) = requestOutput r (setRun r p m s) :=
    requestPaint_idle (by rw [k.engine]; exact hp)
  rw [e]
  unfold presentRun
  rw [before, after, ite_self]
  exact ⟨k.engine, k.presented, k.granted.places, k.granted.reads, k.granted.write⟩

end

/-! ### PARK and RUN requests -/

/-- R54, R58: the registers after a PARK request. -/
theorem requestPark_events (s : State) :
    (requestPark s).regs.events =
      if s.scan.output = .off ∨ s.scan.output = .locking then s.regs.events ||| 0x040 else s.regs.events := by
  have mask : Event.parked.mask = 0x040 := by decide
  rw [← mask]
  unfold requestPark
  cases s.scan.output <;> rfl

theorem requestRun_events (s : State) : (requestRun s).regs.events = s.regs.events := by
  unfold requestRun
  cases s.scan.output <;> rfl

/-- R54: a PARK request asks for a status block with the change of the output state. -/
theorem requestPark_writer (s : State) :
    (requestPark s).writer = asking (decide ((requestPark s).scan.output ≠ s.scan.output)) s.writer := by
  rw [requestPark_scan]
  unfold requestPark parkScan
  cases h : s.scan.output <;> simp [h] <;> rfl

theorem requestRun_writer (s : State) :
    (requestRun s).writer = asking (decide ((requestRun s).scan.output ≠ s.scan.output)) s.writer := by
  rw [requestRun_scan]
  unfold requestRun runScan
  cases h : s.scan.output <;> simp [h] <;> rfl

theorem requestPark_bursts {s : State} (h : s.scan.output ≠ .locking) :
    (requestPark s).port.loader = s.port.loader ∧ (requestPark s).port.reads = s.port.reads := by
  unfold requestPark
  cases ho : s.scan.output
  case locking => exact absurd ho h
  all_goals exact ⟨rfl, rfl⟩

/-- R58: a PARK request abandons an entry to LOCKING, whose timing read is discarded (log entry 13). -/
theorem requestPark_locking {s : State} (h : s.scan.output = .locking) :
    (requestPark s).port.loader = s.port.loader.map (fun b => if b.kind.isTiming then b.drop else b) ∧
      (requestPark s).port.reads =
        s.port.reads.map fun q => if q.burst.kind.isTiming then { q with burst := q.burst.drop } else q := by
  unfold requestPark
  rw [h]
  exact ⟨rfl, rfl⟩

theorem requestRun_reads (s : State) : (requestRun s).port.reads = s.port.reads := by
  unfold requestRun
  cases s.scan.output <;> rfl

/-- R160: a burst behind the one that is presented, ahead of the rest. -/
def behindFirst (b : Burst) : List Burst → List Burst
  | [] => [b]
  | c :: cs => c :: b :: cs

theorem issueTiming_loader (b : Burst) (s : State) :
    (issueTiming b s).port.loader = behindFirst b s.port.loader := by
  cases h : s.port.loader <;> simp only [issueTiming, modPort_port, behindFirst, h]

theorem requestRun_loader (s : State) :
    (requestRun s).port.loader =
      if s.scan.output = .off ∨ s.scan.output = .parked then behindFirst (timingBurst s) s.port.loader
      else s.port.loader := by
  unfold requestRun
  cases s.scan.output
  case off => exact issueTiming_loader _ _
  case parked => exact issueTiming_loader _ _
  all_goals rfl

/-- A PARK or RUN request writes EVENTS, the scan timing unit, the status writer and the loader's part of the port. -/
theorem requestOutput_moves {r : OutputTarget} (hr : r ≠ .off) (s : State) :
    ∃ g c w l rs,
      requestOutput r s = { s with regs := g, scan := c, writer := w, port := { s.port with loader := l, reads := rs } } := by
  cases r with
  | off => exact absurd rfl hr
  | park =>
    simp only [requestOutput, requestPark]
    cases s.scan.output <;> exact ⟨_, _, _, _, _, rfl⟩
  | run =>
    simp only [requestOutput, requestRun]
    cases s.scan.output <;> exact ⟨_, _, _, _, _, rfl⟩

section
variable {a : Bool} {s t : State} (h : BesidePaint a s t)
include h

theorem BesidePaint.scan : t.scan = s.scan := by
  obtain ⟨_, _, _, _, rfl, _⟩ := h
  rfl

theorem BesidePaint.regs : t.regs = s.regs := by
  obtain ⟨_, _, _, _, rfl, _⟩ := h
  rfl

theorem BesidePaint.issued : t.port.loader = s.port.loader := by
  obtain ⟨_, _, _, _, rfl, _⟩ := h
  rfl

theorem BesidePaint.writer : t.writer = asking a s.writer := by
  obtain ⟨_, _, _, _, rfl, _⟩ := h
  rfl

theorem BesidePaint.places : SamePlaces s.port.reads t.port.reads := by
  obtain ⟨_, _, _, _, rfl, same⟩ := h
  exact same

end

theorem acceptRun_frame {r : OutputTarget} (hr : r ≠ .off) (p : Bool) (m : FaultMode) (s : State) :
    acceptRun r p m s =
      { s with
        regs := (acceptRun r p m s).regs, scan := (acceptRun r p m s).scan, paint := (acceptRun r p m s).paint
        writer := (acceptRun r p m s).writer, freeIdx := (acceptRun r p m s).freeIdx
        port :=
          { s.port with
            loader := (acceptRun r p m s).port.loader, reads := (acceptRun r p m s).port.reads
            paint := (acceptRun r p m s).port.paint } } := by
  obtain ⟨e, bs, rs, i, h, _⟩ := acceptRun_beside r p m s
  obtain ⟨g, c, w, l, qs, k⟩ := requestOutput_moves hr (setRun r p m s)
  rw [h, k]
  rfl

theorem exec_park {v : Word} {s : State} (h : s.resetHeld = false) (hd : s.regs.dirBase ≠ 0) :
    exec (.outputPark v) s = .next (acceptRun .park (v.getLsbD 4) (runModeField v) s) :=
  (exec_outputPark h v).trans (congrArg _
    (writeRun_accepted (withOutput_field v .park) (withOutput_paint v .park) (withOutput_mode v .park) (.inl hd)))

theorem exec_run {v : Word} {s : State} (h : s.resetHeld = false) (hd : s.regs.dirBase ≠ 0) :
    exec (.outputRun v) s = .next (acceptRun .run (v.getLsbD 4) (runModeField v) s) :=
  (exec_outputRun h v).trans (congrArg _
    (writeRun_accepted (withOutput_field v .run) (withOutput_paint v .run) (withOutput_mode v .run) (.inl hd)))

theorem exec_off {v : Word} {s : State} (h : s.resetHeld = false) (ha : RunAllowed .off (v.getLsbD 4) s) :
    exec (.outputOff v) s = .next (acceptRun .off (v.getLsbD 4) (runModeField v) s) :=
  (exec_outputOff h v).trans (congrArg _
    (writeRun_accepted (withOutput_field v .off) (withOutput_paint v .off) (withOutput_mode v .off) ha))

/-- The status block that the two fields of a RUN write ask for. -/
theorem asking_both (c : Prop) [Decidable c] (p : Bool) (s : State) (w : Writer) :
    asking (paintAsks p s) (asking (decide c) w) =
      if c ∨ p = true ∧ s.paint.engine = .stopped ∧ s.paint.chainPos ≠ 0 then { w with wantBlock := true } else w := by
  rw [asking_asking, paintAsks, ← Bool.decide_or, asking_decide]

/-- A burst of the loader that is the timing read. -/
theorem isTiming_iff (k : BurstKind) : k.isTiming = true ↔ k = .timing :=
  beq_iff_eq

theorem drop_timings (l : List Burst) :
    (l.map fun b => if b.kind.isTiming then b.drop else b) =
      l.map fun b => if b.kind = .timing then { b with dropped := true } else b := by
  refine List.map_congr_left fun b _ => ?_
  simp only [isTiming_iff]
  rfl

/-- Settles O9: the output request by its case, the rest of the RUN write by `acceptRun_beside`. -/
theorem parkRequestResult : Obligations.ParkRequestResult := by
  intro v s hr hd
  refine ⟨_, exec_park hr hd, acceptRun_frame OutputTarget.noConfusion _ _ s, ?_⟩
  have beside := acceptRun_beside .park (v.getLsbD 4) (runModeField v) s
  have keeps := acceptRun_keepsPaint (r := .park) (p := v.getLsbD 4) (m := runModeField v) (s := s)
  generalize acceptRun .park (v.getLsbD 4) (runModeField v) s = u at beside keeps
  obtain ⟨places, others⟩ := beside.places
  have scan : u.scan = parkScan s.scan := beside.scan.trans (requestPark_scan _)
  have parked : (requestPark (setRun .park (v.getLsbD 4) (runModeField v) s)).port.reads.map Place.unmark = _ :=
    (requestPark_keepsPaint _).granted.places
  refine ⟨places.trans parked, fun hl => ?_, fun ho => ?_, fun hl => ?_, fun ho => ?_, fun ho => ?_, ?_, ?_,
    fun hp => keeps hp (fun e => OutputTarget.noConfusion e)⟩
  · obtain ⟨l, rs⟩ := requestPark_bursts (s := setRun .park (v.getLsbD 4) (runModeField v) s) hl
    exact ⟨beside.issued.trans l, fun pl hp => (others pl hp).trans (by rw [requestOutput, rs]; rfl)⟩
  · rw [scan, parkScan, ho]
  · obtain ⟨l, rs⟩ := requestPark_locking (s := setRun .park (v.getLsbD 4) (runModeField v) s) hl
    have marked (pl : Place) (hp : pl.burst.kind.requester ≠ .paint) := (others pl hp).trans
      ((iff_of_eq (by rw [requestOutput, rs])).trans (mem_marked (k := BurstKind.isTiming)))
    refine ⟨by rw [scan, parkScan, hl], beside.issued.trans (l.trans (drop_timings _)), fun pl hpl hk => ?_,
      fun pl hp hk => (marked pl hp).trans ?_⟩
    · have hp : pl.burst.kind.requester ≠ .paint := by simp [hk, BurstKind.requester]
      rcases (marked pl hp).mp hpl with ⟨_, q, _, rfl⟩ | ⟨hn, _⟩
      · rfl
      · exact absurd ((isTiming_iff _).mpr hk) (by simp [hn])
    · have other : pl.burst.kind.isTiming = false := Bool.eq_false_iff.mpr fun e => hk ((isTiming_iff _).mp e)
      simp [other, setRun]
  · rw [scan, parkScan, ho]
  · rw [scan, parkScan]
    rcases ho with ho | ho <;> rw [ho]
  · rw [beside.regs]
    exact requestPark_events _
  · rw [beside.writer, beside.scan]
    exact (congrArg (asking _) (requestPark_writer _)).trans (asking_both _ _ _ _)

/-- Settles O10, as O9. -/
theorem runRequestResult : Obligations.RunRequestResult := by
  intro v s hr hd
  refine ⟨_, exec_run hr hd, acceptRun_frame OutputTarget.noConfusion _ _ s, ?_⟩
  have beside := acceptRun_beside .run (v.getLsbD 4) (runModeField v) s
  have keeps := acceptRun_keepsPaint (r := .run) (p := v.getLsbD 4) (m := runModeField v) (s := s)
  generalize acceptRun .run (v.getLsbD 4) (runModeField v) s = u at beside keeps
  obtain ⟨places, others⟩ := beside.places
  have scan : u.scan = runScan s.scan := beside.scan.trans (requestRun_scan _)
  have reads : (requestOutput .run (setRun .run (v.getLsbD 4) (runModeField v) s)).port.reads = s.port.reads :=
    requestRun_reads _
  have loader := beside.issued.trans (requestRun_loader _)
  rw [reads] at places others
  refine ⟨beside.regs ▸ requestRun_events _, places, others, fun ho => ?_, fun ho => ?_,
    fun ho => ⟨fun hl => ?_, fun c cs hl => ?_⟩, fun ho => ⟨?_, ?_⟩, fun ho => ⟨?_, ?_⟩, ?_, fun hp => keeps hp (fun e => OutputTarget.noConfusion e)⟩
  · rw [scan, runScan, ho]
  · rw [scan, runScan, ho]
  · rw [loader]
    exact (if_pos ho).trans (congrArg (behindFirst _) hl)
  · rw [loader]
    exact (if_pos ho).trans (congrArg (behindFirst _) hl)
  · rw [scan, runScan, ho]
  · rw [loader]
    exact if_neg (by rintro (h | h) <;> exact OutputState.noConfusion (ho.symm.trans h))
  · rw [scan, runScan]
    rcases ho with ho | ho <;> rw [ho]
  · rw [loader]
    exact if_neg (by rintro (h | h) <;> rcases ho with ho | ho <;> exact OutputState.noConfusion (ho.symm.trans h))
  · rw [beside.writer, beside.scan]
    exact (congrArg (asking _) (requestRun_writer _)).trans (asking_both _ _ _ _)

/-! ### OFF requests -/

/-- An entry to OFF by a RUN write, but for the paint engine. -/
theorem acceptRun_off {s : State} (ho : s.scan.output ≠ .off) (p : Bool) (m : FaultMode) :
    BesidePaint (paintAsks p s) (offBefore (setRun .off p m s)) (acceptRun .off p m s) := by
  have beside := acceptRun_beside .off p m s
  have entered : requestOutput .off (setRun .off p m s) = enterOff (setRun .off p m s) := requestOff_on ho
  obtain ⟨q, cs, e⟩ := enterOff_issues (setRun .off p m s)
  rw [entered, e] at beside
  obtain ⟨pt, bs, rs, i, h, same⟩ := beside
  exact ⟨pt, bs, rs, i, h, same⟩

theorem offReads_unmark (qs : List Place) : (offReads qs).map Place.unmark = qs.map Place.unmark :=
  (map_unmark_drop BurstKind.isSpan _).trans (map_unmark_drop BurstKind.isLoaderRead qs)

/-- R63: every read in flight of the ended load, the timing record and the fetch is marked. -/
theorem offReads_dropped {qs : List Place} {pl : Place} (h : pl ∈ offReads qs)
    (hk : pl.burst.kind.isLoaderRead = true ∨ pl.burst.kind.isSpan = true) : pl.burst.dropped = true := by
  rcases mem_marked.mp h with ⟨_, q, _, rfl⟩ | ⟨span, hm⟩
  · rfl
  · rcases mem_marked.mp hm with ⟨_, q, _, rfl⟩ | ⟨read, _⟩
    · rfl
    · simp [span, read] at hk

theorem ended_requester {k : BurstKind} (h : k.isLoaderRead = true ∨ k.isSpan = true) : k.requester ≠ .paint := by
  cases k <;> simp [BurstKind.isLoaderRead, BurstKind.isSpan, BurstKind.requester] at h ⊢

theorem offWrites_eq (s : State) :
    offWrites s =
      (s.port.loader.filter fun b => !b.kind.isLoaderRead) ++
        s.loader.shownSlot.toList.map fun n =>
          burstAt (.slotWrite n s.loader.shownSeq true) (s.regs.dirBase.toNat + 0x20 + 32 * n.val) 4 [3, 0, 0, 0] :=
  congrArg _ (List.map_congr_left fun n _ => slotWordBurst_eq s n 3 .none s.loader.shownSeq true)

/-- Settles O11: `offBefore_eq`, seen through `acceptRun_off`. -/
theorem offRequestResult : Obligations.OffRequestResult := by
  intro v s hr ha ho
  refine ⟨_, exec_off hr ha, ?_⟩
  have beside := acceptRun_off ho (v.getLsbD 4) (runModeField v)
  generalize acceptRun .off (v.getLsbD 4) (runModeField v) s = u at beside
  obtain ⟨e, bs, rs, i, rfl, places, others⟩ := beside
  rw [offBefore_eq] at places others ⊢
  refine ⟨rfl, rfl, rfl, rfl, rfl, fun l hl => ?_, rfl, rfl, rfl, places.trans (offReads_unmark _), fun pl hpl hk => ?_⟩
  · obtain rfl : l = offWrites s := hl.trans (offWrites_eq s).symm
    refine ⟨rfl, ?_⟩
    have asks :
        (((offWrites s).head?.any Burst.asks || s.loader.shownSlot.isNone) || paintAsks (v.getLsbD 4) s) =
          decide (s.loader.shownSlot = none ∨ (offWrites s).head?.any Burst.asks = true ∨
            v.getLsbD 4 = true ∧ s.paint.engine = .stopped ∧ s.paint.chainPos ≠ 0) := by
      rw [Bool.or_comm ((offWrites s).head?.any Burst.asks), Bool.or_assoc, Bool.eq_iff_iff]
      simp only [Bool.or_eq_true, Option.isNone_iff_eq_none, paintAsks, decide_eq_true_eq]
    calc
      _ = asking (((offWrites s).head?.any Burst.asks || s.loader.shownSlot.isNone) || paintAsks (v.getLsbD 4) s)
          s.writer := asking_asking _ _ _
      _ = _ := by rw [asks, asking_decide]
  · exact offReads_dropped ((others pl (ended_requester hk)).mp hpl) hk

end Sys2Proof.Machine
end

section
/-! RUN PAINT (R111, R112, R121, R122, R175): a walk started by PAINT 1, and the engine stopped by PAINT 0, whatever the
write's OUTPUT field asks for. -/

namespace Sys2Proof.Machine

/-! ### PAINT 1 in STOPPED -/

/-- R112, R122: in `u` a PAINT 1 has started a walk of the engine that was STOPPED in `s`. -/
structure WalkStarted (s u : State) : Prop where
  granted : KeepsGranted s u
  unheld : s.paint.held = none →
    u.paint = { s.paint with engine := .loading, chainPos := 0, passedOver := 0 } ∧
      u.port.paint = s.port.paint ++ [burstAt .headPointer (s.regs.dirBase.toNat + 0x18) 4 []]
  held : s.paint.held ≠ none →
    u.paint = { s.paint with engine := .loading, chainPos := 0, passedOver := 0, reenable := true } ∧
      u.port.paint = s.port.paint

theorem WalkStarted.before {s t u : State} (k : KeepsPaint s t) (hd : t.regs.dirBase = s.regs.dirBase)
    (h : WalkStarted t u) : WalkStarted s u := by
  obtain ⟨granted, unheld, held⟩ := h
  rw [k.engine, k.presented] at unheld held
  rw [hd] at unheld
  exact ⟨k.granted.trans granted, unheld, held⟩

theorem WalkStarted.after {s t u : State} (h : WalkStarted s t) (k : KeepsPaint t u) : WalkStarted s u := by
  obtain ⟨granted, unheld, held⟩ := h
  rw [← k.engine, ← k.presented] at unheld held
  exact ⟨granted.trans k.granted, unheld, held⟩

theorem paintOn_started {s : State} (h : s.paint.engine = .stopped) : WalkStarted s (paintOn s) := by
  unfold paintOn
  rw [if_pos h, setChainPos_eq]
  dsimp only
  cases hh : s.paint.held with
  | none =>
    rw [if_neg (by simp)]
    exact ⟨.of_eq rfl rfl, fun _ => ⟨rfl, rfl⟩, fun hn => absurd hh hn⟩
  | some o =>
    rw [if_pos (by simp)]
    exact ⟨.of_eq rfl rfl, fun hn => absurd (hh.symm.trans hn) (Option.some_ne_none o), fun _ => ⟨rfl, rfl⟩⟩

/-! ### PAINT fields beside an output request -/

section
variable {r : OutputTarget} {p : Bool} {m : FaultMode} {s : State}

/-- An accepted RUN write takes its two fields in one order or the other. -/
theorem acceptRun_orders (r : OutputTarget) (p : Bool) (m : FaultMode) (s : State) :
    KeepsPaint (requestPaint p (requestOutput r (setRun r p m s))) (acceptRun r p m s) ∨
      KeepsPaint (requestOutput r (requestPaint p (setRun r p m s))) (acceptRun r p m s) := by
  obtain ⟨b, e⟩ := acceptRun_cases r p m s
  rw [e]
  cases b
  · exact .inr (.of_eq rfl rfl rfl rfl)
  · exact .inl (.of_eq rfl rfl rfl rfl)

theorem setRun_keepsPaint (r : OutputTarget) (p : Bool) (m : FaultMode) (s : State) : KeepsPaint s (setRun r p m s) :=
  .of_eq rfl rfl rfl rfl

theorem requestOutput_dirBase (r : OutputTarget) (s : State) : (requestOutput r s).regs.dirBase = s.regs.dirBase := by
  rw [requestOutput_regs]

/-- R127: a walk started beside an output request. -/
theorem acceptRun_started (r : OutputTarget) (m : FaultMode) (h : s.paint.engine = .stopped) :
    WalkStarted s (acceptRun r true m s) := by
  have quiet (t : State) (ht : t.paint.engine ≠ .waiting ∧ t.paint.engine ≠ .held) :
      KeepsPaint t (requestOutput r t) := requestOutput_keepsPaint fun _ _ => ht
  rcases acceptRun_orders r true m s with k | k
  · have first := quiet (setRun r true m s) (by simp [setRun, h])
    have stopped : (requestOutput r (setRun r true m s)).paint.engine = .stopped :=
      (congrArg Paint.engine first.engine).trans h
    exact (((paintOn_started stopped).before first (requestOutput_dirBase r _)).before (setRun_keepsPaint r true m s)
      rfl).after k
  · have started : WalkStarted s (requestPaint true (setRun r true m s)) :=
      (paintOn_started (s := setRun r true m s) h).before (setRun_keepsPaint r true m s) rfl
    have loading : (requestPaint true (setRun r true m s)).paint.engine = .loading := by
      by_cases hh : s.paint.held = none
      · rw [(started.unheld hh).1]
      · rw [(started.held hh).1]
    exact (started.after (quiet _ (by simp [loading]))).after k

/-- R54, R175: with an OUTPUT field that is no request, a RUN write is its PAINT field. -/
theorem acceptRun_idle (p : Bool) (m : FaultMode) (h : idleRequest r s.scan.output = true) :
    ∃ e w bs i,
      acceptRun r p m s =
        { s with
          regs := { s.regs with runOutput := r, runPaint := p, runMode := m }
          paint := e, writer := w, freeIdx := i
          port := { s.port with reads := (requestPaint p (setRun r p m s)).port.reads, paint := bs } } := by
  obtain ⟨b, e⟩ := acceptRun_cases r p m s
  have scan : (requestPaint p (setRun r p m s)).scan = s.scan := (requestPaint_quiet p _).scan
  have after : requestOutput r (requestPaint p (setRun r p m s)) = requestPaint p (setRun r p m s) :=
    requestOutput_idle (scan ▸ h)
  have before : requestOutput r (setRun r p m s) = setRun r p m s := requestOutput_idle h
  rw [e]
  unfold presentRun
  rw [before, after, ite_self]
  obtain ⟨e, w, bs, rs, h⟩ := requestPaint_turns p (setRun r p m s)
  rw [h]
  exact ⟨e, w, bs, _, rfl⟩

theorem acceptRun_runPaint (r : OutputTarget) (p : Bool) (m : FaultMode) (s : State) :
    (acceptRun r p m s).regs.runPaint = p :=
  (acceptRun_holds r p m s).2.1

theorem exec_paint {v : Word} (h : s.resetHeld = false) (hf : runOutputField v = some r) (ha : RunAllowed r p s) :
    live (hostWrite 0x08 (withPaint v p)) s = .next (acceptRun r p (runModeField v) s) :=
  hostWrite_run_accepted h ((withPaint_field v p).trans hf) (withPaint_paint v p) (withPaint_mode v p) ha

end

/-- Settles O13: the walk by `acceptRun_started`, the other blocks by `acceptRun_idle` and `acceptRun_beside`. -/
theorem paintSetResult : Obligations.PaintSetResult := by
  intro v r s hr hf hd hs
  have started := acceptRun_started r (runModeField v) hs
  have beside := acceptRun_beside r true (runModeField v) s
  have asks : paintAsks true s = decide (s.paint.chainPos ≠ 0) := by simp [paintAsks, hs]
  rw [asks] at beside
  refine ⟨_, exec_paint hr hf (.inl hd), acceptRun_runPaint .., started.granted, started.unheld, started.held,
    fun hc => ?_, fun hi => ⟨?_, fun hc => ?_, fun hc => ?_⟩⟩
  · rw [beside.writer, decide_eq_true hc]
    rfl
  · obtain ⟨e, w, bs, i, h⟩ := acceptRun_idle true (runModeField v) hi
    have reads : (requestPaint true (setRun r true (runModeField v) s)).port.reads = s.port.reads := paintOn_reads _
    rw [h, reads]
  all_goals
    rw [beside.writer, requestOutput_idle (s := setRun r true (runModeField v) s) hi, asking_decide]
  · exact if_neg fun hn => hn hc
  · exact if_pos hc

/-! ### PAINT 0 -/

theorem requestOutput_fault (r : OutputTarget) (s : State) : (requestOutput r s).fault = s.fault := by
  by_cases hr : r = .off
  · subst hr
    by_cases ho : s.scan.output = .off
    · rw [show requestOutput .off s = s from requestOff_off ho]
    · obtain ⟨q, cs, e⟩ := enterOff_issues s
      rw [show requestOutput .off s = enterOff s from requestOff_on ho, e, offBefore_eq]
  · obtain ⟨g, c, w, l, rs, e⟩ := requestOutput_moves hr s
    rw [e]

/-- R121, R127: the engine stopped beside an output request that leaves it. -/
theorem acceptRun_cleared {r : OutputTarget} (m : FaultMode) {s : State} (hs : s.paint.engine ≠ .stopped)
    (hr : r = .off → s.scan.output ≠ .off → s.paint.engine ≠ .waiting ∧ s.paint.engine ≠ .held) :
    PaintCleared s (acceptRun r false m s) := by
  have set := setRun_keepsPaint r false m s
  rcases acceptRun_orders r false m s with k | k
  · have first : KeepsPaint (setRun r false m s) (requestOutput r (setRun r false m s)) := requestOutput_keepsPaint hr
    have on : (requestOutput r (setRun r false m s)).paint.engine ≠ .stopped := by
      rw [first.engine]
      exact hs
    exact (((paintOff_cleared on).before first).before set).after k
  · have cleared : PaintCleared s (requestPaint false (setRun r false m s)) :=
      (paintOff_cleared (s := setRun r false m s) hs).before set
    have stopped := cleared.stopped.isStopped
    exact (cleared.after (requestOutput_keepsPaint fun _ _ => by simp [stopped])).after k

/-- Settles O14: the engine by `acceptRun_cleared`, the other blocks by `acceptRun_idle`. -/
theorem paintClearResult : Obligations.PaintClearResult := by
  intro v r s hr hf ha hs ho
  refine ⟨_, exec_paint hr hf ha, acceptRun_runPaint .., acceptRun_cleared _ hs ho, ?_, fun hi => ?_⟩
  · obtain ⟨e, bs, rs, i, h, _⟩ := acceptRun_beside r false (runModeField v) s
    rw [h]
    exact requestOutput_fault r _
  · obtain ⟨e, w, bs, i, h⟩ := acceptRun_idle false (runModeField v) hi
    have writer := (acceptRun_beside r false (runModeField v) s).writer
    have reads : (requestPaint false (setRun r false (runModeField v) s)).port.reads = _ := paintOff_reads hs
    rw [requestOutput_idle (s := setRun r false (runModeField v) s) hi] at writer
    rw [h, reads] at writer ⊢
    obtain rfl : w = s.writer := writer
    refine ⟨List.map_congr_left fun pl _ => ?_, rfl⟩
    simp only [beq_iff_eq]
    rfl

end Sys2Proof.Machine
end

section
/-! The entry to OFF in the paint engine (R64, R121, R127, R140, R143): a waiting fence ends, a held order is released,
and a PAINT 0 in the same write stops the engine in either order of the two fields. -/

namespace Sys2Proof.Machine

/-! ### The entry to OFF in WAITING and in HELD -/

section
variable {h : Held} {s : State}

/-- R143: the entry to OFF in WAITING. -/
theorem enterOff_waiting (he : s.paint.engine = .waiting) : enterOff s = finish .noOutput (offBefore s) := by
  have waiting : (offBefore s).paint.engine = .waiting := by rw [(offBefore_keepsPaint s).engine, he]
  have ends : endFenceAtOff (offBefore s) = finish .noOutput (offBefore s) := if_pos waiting
  have executing := endFenceAtOff_engine (offBefore s)
  rw [if_pos waiting] at executing
  have entered : enterOff s = retestHold (endFenceAtOff (offBefore s)) := rfl
  rw [entered, retestHold_other (by simp [executing]), ends]

theorem inView_nil (o : Order) : o.inView [] = false := by
  cases o <;> rfl

/-- R140: the entry to OFF in HELD, against the empty in-view table. -/
theorem enterOff_held (he : s.paint.engine = .held) (hh : s.paint.held = some h) :
    enterOff s = startRow (setEngine .executing (offBefore s)) := by
  have k := (offBefore_keepsPaint s).engine
  have stays : endFenceAtOff (offBefore s) = offBefore s := if_neg (by simp [k, he])
  have unseen : (offBefore s).loader.inView = [] := by rw [offBefore_eq]; rfl
  have entered : enterOff s = retestHold (endFenceAtOff (offBefore s)) := rfl
  rw [entered, stays, retestHold, if_pos (by rw [k, he]), k, hh, unseen]
  dsimp only
  rw [inView_nil]
  exact if_neg Bool.false_ne_true

theorem enterOff_granted (s : State) : KeepsGranted s (enterOff s) := by
  obtain ⟨p, bs, e⟩ := enterOff_issues s
  refine (offBefore_keepsPaint s).granted.trans ?_
  rw [e]
  exact .of_eq rfl rfl

theorem RowBegun.congr {s s' u u' : State} (k : RowBegun h s u) (hp : s'.paint = s.paint)
    (hb : s'.port.paint = s.port.paint) (up : u'.paint = u.paint) (ub : u'.port.paint = u.port.paint) :
    RowBegun h s' u' := by
  unfold RowBegun at *
  rw [hp, hb, up, ub]
  exact k

theorem enterOff_fence (he : s.paint.engine = .waiting) (hh : s.paint.held = some h) (hp : h.phase = .running) :
    FenceEnds .noOutput h s (enterOff s) := by
  have k := offBefore_keepsPaint s
  have held : (offBefore s).paint.held = some h := by rw [k.engine, hh]
  rw [enterOff_waiting he]
  exact (finish_ends held hp).congr k.engine.symm k.presented.symm k.granted.write.symm rfl rfl

theorem enterOff_row (he : s.paint.engine = .held) (hh : s.paint.held = some h) : RowBegun h s (enterOff s) := by
  have k := offBefore_keepsPaint s
  have held : (offBefore s).paint.held = some h := by rw [k.engine, hh]
  rw [enterOff_held he hh]
  exact (startRow_begun held).congr k.engine.symm k.presented.symm rfl rfl

end

/-- The entry to OFF writes the engine's state and its held order. -/
theorem enterOff_paint (s : State) : ∃ e o, (enterOff s).paint = { s.paint with engine := e, held := o } := by
  have k := (offBefore_keepsPaint s).engine
  by_cases hw : s.paint.engine = .waiting
  · rw [enterOff_waiting hw, finish, tryFinish_paint]
    exact ⟨.executing, _, by rw [← k]; rfl⟩
  by_cases he : s.paint.engine = .held
  · cases hh : s.paint.held with
    | some h => exact ⟨_, _, (enterOff_row he hh).1⟩
    | none =>
      have stays : endFenceAtOff (offBefore s) = offBefore s := if_neg (by simp [k, he])
      have entered : enterOff s = retestHold (endFenceAtOff (offBefore s)) := rfl
      rw [entered, stays, retestHold, if_pos (by rw [k, he]), k, hh]
      exact ⟨_, _, k⟩
  · rw [(enterOff_keepsPaint hw he).engine]
    exact ⟨_, _, rfl⟩

/-! ### PAINT 1 with an entry to OFF -/

theorem acceptRun_entered {p : Bool} {m : FaultMode} {s : State} (ho : s.scan.output ≠ .off)
    (hp : p = true ↔ s.paint.engine ≠ .stopped) :
    KeepsPaint (enterOff (setRun .off p m s)) (acceptRun .off p m s) := by
  have entered : requestOutput .off (setRun .off p m s) = enterOff (setRun .off p m s) := requestOff_on ho
  rcases acceptRun_orders .off p m s with k | k
  · rwa [requestPaint_idle (hp.trans (not_congr (requestOutput_stopped .off (setRun .off p m s)).symm)), entered] at k
  · rwa [requestPaint_idle (s := setRun .off p m s) hp, entered] at k

/-! ### PAINT 0 with an entry to OFF -/

/-- R121: in `u` the order `h`, held in RUNNING in `s`, has ended with `f` under a PAINT 0; its final status is written
at once when no write of it is outstanding. -/
def OrderEnded (f : FinalStatus) (h : Held) (s u : State) : Prop :=
  ∃ h',
    u.paint.held = some h' ∧
      h' =
        { h with
          phase := h'.phase, decided := some f, oldWalk := true, src := h'.src, srcLeft := h'.srcLeft } ∧
      ((∀ b ∈ s.port.paint, b.kind ≠ .final) →
        (EngineWriteOut s → h'.phase = .running ∧ u.port.paint = []) ∧
          (¬EngineWriteOut s →
            h'.phase = .closing ∧ u.port.paint = [burstAt .final (h.addr.toNat + 4) 4 [f.stateByte, 0, 0, 0]]))

/-- The end of an order, seen from a state before its row was begun or its fence decided. -/
theorem OrderEnded.before {f : FinalStatus} {h : Held} {d : Option FinalStatus} {src : List Byte} {n : Nat} {s t u : State}
    (k : OrderEnded f { h with decided := d, src := src, srcLeft := n } t u) (hw : t.port.write = s.port.write)
    (hb : (∀ b ∈ s.port.paint, b.kind ≠ .final) → ∀ b ∈ t.port.paint, b.kind ≠ .final) : OrderEnded f h s u := by
  obtain ⟨h', held, e, ends⟩ := k
  unfold EngineWriteOut at ends
  rw [hw] at ends
  exact ⟨h', held, e, fun hn => ends (hb hn)⟩

theorem OrderEnded.after {f : FinalStatus} {h : Held} {s t u : State} (k : OrderEnded f h s t) (e : KeepsPaint t u) :
    OrderEnded f h s u := by
  unfold OrderEnded at *
  rw [e.engine, e.presented]
  exact k

section
variable {h : Held} {s : State} (hs : s.paint.engine ≠ .stopped) (hh : s.paint.held = some h)
include hs hh

theorem paintOff_running (hp : h.phase = .running) :
    ∃ ph, (paintOff s).paint.held = some { h with decided := some .aborted, oldWalk := true, phase := ph } := by
  have held : (withdrawPaint (s.modPaint fun p => { p with engine := .stopped, reenable := false })).paint.held = some h :=
    hh
  have e : paintOff s = clearHeld h (withdrawPaint (s.modPaint fun p => { p with engine := .stopped, reenable := false })) := by
    rw [paintOff, if_neg hs, hh]
  rw [e, clearHeld, hp]
  dsimp only
  rw [modHeld_some held]
  unfold tryFinish
  dsimp only
  split
  · exact ⟨_, rfl⟩
  · exact ⟨_, rfl⟩

/-- R121: PAINT 0 aborts an order in RUNNING. -/
theorem paintOff_aborts (hp : h.phase = .running) : OrderEnded .aborted h s (paintOff s) := by
  obtain ⟨ph, held⟩ := paintOff_running hs hh hp
  refine ⟨_, held, rfl, fun hn => ⟨fun hw => ?_, fun hw => ?_⟩⟩
  · obtain ⟨e, bursts⟩ := ((paintOff_cleared hs).running h hh hp hn).1 hw
    exact ⟨(congrArg Held.phase (Option.some.inj (held.symm.trans e))).trans hp, bursts⟩
  · obtain ⟨e, bursts⟩ := ((paintOff_cleared hs).running h hh hp hn).2 hw
    exact ⟨congrArg Held.phase (Option.some.inj (held.symm.trans e)), bursts⟩

end

theorem runBursts_kind {k : Nat → BurstKind} {a n : Nat} {data : List Byte} {b : Burst}
    (h : b ∈ runBursts k a n data) : ∃ o, b.kind = k o := by
  obtain ⟨q, _, rfl⟩ := List.mem_map.mp h
  exact ⟨_, rfl⟩

/-- R137, R138: a row begun keeps the order but for its row buffer, and issues no final status. -/
theorem startRow_keeps {h : Held} {s : State} (hh : s.paint.held = some h) :
    (∃ src n, (startRow s).paint.held = some { h with src := src, srcLeft := n }) ∧
      ((∀ b ∈ s.port.paint, b.kind ≠ .final) → ∀ b ∈ (startRow s).port.paint, b.kind ≠ .final) := by
  obtain ⟨o, ho⟩ : ∃ o, h.order = o := ⟨_, rfl⟩
  cases o with
  | copy c =>
    rw [startRow_copy hh ho]
    refine ⟨⟨_, _, rfl⟩, fun hn b hb => ?_⟩
    rcases List.mem_append.mp hb with hb | hb
    · exact hn b hb
    · obtain ⟨run, _, hb⟩ := List.mem_flatMap.mp hb
      obtain ⟨o, e⟩ := runBursts_kind hb
      rw [e]
      exact BurstKind.noConfusion
  | fill f =>
    rw [startRow_fill hh ho]
    refine ⟨⟨h.src, h.srcLeft, hh⟩, fun hn b hb => ?_⟩
    rcases List.mem_append.mp hb with hb | hb
    · exact hn b hb
    · obtain ⟨o, e⟩ := runBursts_kind hb
      rw [e]
      exact BurstKind.noConfusion
  | fence | stamp | unknown =>
    have e : startRow s = s := by simp only [startRow, hh, ho]
    rw [e]
    exact ⟨⟨h.src, h.srcLeft, hh⟩, id⟩

/-- R121, R143: the entry to OFF in WAITING, then PAINT 0: the fence ended with NO_OUTPUT, or it is aborted while a
write of it waits. -/
theorem paintOff_fence {h : Held} {s : State} (he : s.paint.engine = .waiting) (hh : s.paint.held = some h)
    (hp : h.phase = .running) :
    OrderEnded .aborted h s (paintOff (enterOff s)) ∨ OrderEnded .noOutput h s (paintOff (enterOff s)) := by
  have k := offBefore_keepsPaint s
  have held : (offBefore s).paint.held = some h := by rw [k.engine, hh]
  rw [enterOff_waiting he]
  cases hw : orderWritesOpen (offBefore s) with
  | true =>
    rw [finish_waits held hw]
    refine .inl ((paintOff_aborts (h := { h with decided := some .noOutput }) EngineState.noConfusion rfl hp).before
      k.granted.write fun hn => ?_)
    rwa [← k.presented] at hn
  | false =>
    have closing := finish_closes (f := .noOutput) held hp hw
    have silent : ¬WriteWaits (offBefore s) := (not_writeWaits_iff _).mpr hw
    have unsent : (offBefore s).port.paint.filter (fun b => b.kind == .final) = [] := by
      refine List.filter_eq_nil_iff.mpr fun b hb hk => silent (.inl ⟨b, hb, ?_⟩)
      rw [beq_iff_eq.mp hk]
      rfl
    have cleared := paintOff_cleared (s := finish .noOutput (offBefore s)) (by rw [closing]; exact EngineState.noConfusion)
    obtain ⟨kept, bursts⟩ := cleared.ended { h with decided := some .noOutput, phase := .closing } (by rw [closing]; rfl)
      (.inr rfl)
    refine .inr ⟨_, kept, rfl, fun _ => ⟨fun hout => absurd ?_ silent, fun _ => ⟨rfl, ?_⟩⟩⟩
    · obtain ⟨pl, hpl, ha, hk⟩ := hout
      exact .inr ⟨pl, k.granted.write.trans hpl, ha, hk⟩
    · rw [bursts, closing, closingWith]
      dsimp only
      rw [List.filter_append, unsent]
      rfl

/-- R121, R140: the entry to OFF in HELD, then PAINT 0. -/
theorem paintOff_row {h : Held} {s : State} (he : s.paint.engine = .held) (hh : s.paint.held = some h)
    (hp : h.phase = .running) : OrderEnded .aborted h s (paintOff (enterOff s)) := by
  have k := offBefore_keepsPaint s
  have held : (setEngine .executing (offBefore s)).paint.held = some h := by
    show (offBefore s).paint.held = _
    rw [k.engine, hh]
  obtain ⟨⟨src, n, row⟩, quiet⟩ := startRow_keeps held
  have on : (enterOff s).paint.engine ≠ .stopped := by
    rw [enterOff_held he hh, startRow_engine]
    exact EngineState.noConfusion
  rw [← enterOff_held he hh] at row quiet
  refine (paintOff_aborts on row hp).before (enterOff_granted s).write fun hn => quiet ?_
  show ∀ b ∈ (offBefore s).port.paint, _
  rwa [k.presented]

/-- R64, R121: PAINT 0 with an entry to OFF, of an order in RUNNING. -/
theorem acceptRun_ends {h : Held} {s : State} (m : FaultMode) (ho : s.scan.output ≠ .off)
    (hs : s.paint.engine ≠ .stopped) (hh : s.paint.held = some h) (hp : h.phase = .running) :
    OrderEnded .aborted h s (acceptRun .off false m s) ∨
      s.paint.engine = .waiting ∧ OrderEnded .noOutput h s (acceptRun .off false m s) := by
  have entered : requestOutput .off (setRun .off false m s) = enterOff (setRun .off false m s) := requestOff_on ho
  rcases acceptRun_orders .off false m s with k | k
  · rw [entered] at k
    by_cases hw : s.paint.engine = .waiting
    · rcases paintOff_fence (s := setRun .off false m s) hw hh hp with e | e
      · exact .inl (e.after k)
      · exact .inr ⟨hw, e.after k⟩
    by_cases he : s.paint.engine = .held
    · exact .inl ((paintOff_row (s := setRun .off false m s) he hh hp).after k)
    · have same : KeepsPaint (setRun .off false m s) (enterOff (setRun .off false m s)) := enterOff_keepsPaint hw he
      have held : (enterOff (setRun .off false m s)).paint.held = some h := by
        rw [same.engine]
        exact hh
      have ends := paintOff_aborts (s := enterOff (setRun .off false m s)) (by rw [same.engine]; exact hs) held hp
      refine .inl ((ends.before (d := h.decided) (src := h.src) (n := h.srcLeft) same.granted.write fun hn => ?_).after k)
      rw [same.presented]
      exact hn
  · have ends : OrderEnded .aborted h s (requestPaint false (setRun .off false m s)) :=
      paintOff_aborts (s := setRun .off false m s) hs hh hp
    have stopped : (requestPaint false (setRun .off false m s)).paint.engine = .stopped :=
      (paintOff_cleared (s := setRun .off false m s) hs).stopped.isStopped
    exact .inl ((ends.after (requestOutput_keepsPaint fun _ _ => by simp [stopped])).after k)

/-- R121: PAINT 0 with an entry to OFF stops the engine in either order of the two. -/
theorem acceptRun_stops {s : State} (m : FaultMode) (ho : s.scan.output ≠ .off) (hs : s.paint.engine ≠ .stopped) :
    PaintStopped s (acceptRun .off false m s) := by
  have entered : requestOutput .off (setRun .off false m s) = enterOff (setRun .off false m s) := requestOff_on ho
  rcases acceptRun_orders .off false m s with k | k
  · rw [entered] at k
    have on : (enterOff (setRun .off false m s)).paint.engine ≠ .stopped := by
      rw [← entered]
      exact fun e => hs ((requestOutput_stopped .off (setRun .off false m s)).mp e)
    obtain ⟨engine, places, reads, write⟩ := (paintOff_cleared on).stopped
    obtain ⟨e, o, paint⟩ := enterOff_paint (setRun .off false m s)
    have granted := enterOff_granted (setRun .off false m s)
    rw [paint] at engine
    have stopped : PaintStopped s (requestPaint false (enterOff (setRun .off false m s))) :=
      ⟨engine, places.trans granted.places, reads, write.trans granted.write⟩
    exact stopped.after k
  · have cleared : PaintCleared s (requestPaint false (setRun .off false m s)) :=
      (paintOff_cleared (s := setRun .off false m s) hs).before (setRun_keepsPaint .off false m s)
    have still := cleared.stopped.isStopped
    exact (cleared.stopped.after (requestOutput_keepsPaint fun _ _ => by simp [still])).after k

/-- Settles O12: PAINT 1 by `acceptRun_entered`, PAINT 0 by `acceptRun_stops`, `acceptRun_cleared` and
`acceptRun_ends`. -/
theorem offRequestReleasesThePaintEngine : Obligations.OffRequestReleasesThePaintEngine := by
  intro v s hr ho
  refine ⟨fun ha hv hs => ?_, fun ha hv => ?_⟩
  · have k : KeepsPaint (enterOff (setRun .off true (runModeField v) s)) (acceptRun .off true (runModeField v) s) :=
      acceptRun_entered ho (by simp [hs])
    have runs := exec_off hr (hv.symm ▸ ha)
    rw [hv] at runs
    refine ⟨_, runs, acceptRun_runPaint .., ?_, fun hw he => acceptRun_keepsPaint (by simp [hs]) fun _ _ => ⟨hw, he⟩,
      fun h hh hp => ⟨fun hw => ?_, fun he => ?_⟩⟩
    · exact (setRun_keepsPaint .off true (runModeField v) s).granted.trans ((enterOff_granted _).trans k.granted)
    · exact (enterOff_fence (s := setRun .off true (runModeField v) s) hw hh hp).congr rfl rfl rfl k.engine k.presented
    · exact (enterOff_row (s := setRun .off true (runModeField v) s) he hh).congr rfl rfl k.engine k.presented
  · have runs := exec_off hr (hv.symm ▸ ha)
    rw [hv] at runs
    refine ⟨_, runs, acceptRun_runPaint .., fun hs => acceptRun_keepsPaint (by simp [hs]) fun _ _ => by simp [hs],
      acceptRun_stops _ ho, fun hs hw he => acceptRun_cleared _ hs fun _ _ => ⟨hw, he⟩, fun h hh hp hs => ?_⟩
    rcases acceptRun_ends (runModeField v) ho hs hh hp with ends | ⟨hw, ends⟩
    · obtain ⟨h', held, e, rest⟩ := ends
      have decided : h'.decided = some .aborted := congrArg Held.decided e
      refine ⟨h', held, by rw [decided]; exact e, .inl decided, ?_⟩
      rw [decided, if_neg (by decide)]
      exact rest
    · obtain ⟨h', held, e, rest⟩ := ends
      have decided : h'.decided = some .noOutput := congrArg Held.decided e
      refine ⟨h', held, by rw [decided]; exact e, .inr ⟨hw, decided⟩, ?_⟩
      rw [decided, if_pos rfl]
      exact rest

end Sys2Proof.Machine
end
